-- ==== Sys2Proof/Word.lean ====
section
/-! DEFINITION. Sys2Proof/Word.lean: the names of the word widths GBN-CCT moves (spec/00_scope.md R7,
spec/10_state.md R11 and R30). Everything is unsigned: the block has no signed arithmetic (R7). -/

namespace Sys2Proof

/-- One byte of the frame buffer (spec/20_memory.md R40). -/
abbrev Byte := BitVec 8

/-- A 16-bit quantity: a checksum word, the accumulator, a flag field. -/
abbrev Half := BitVec 16

/-- A 32-bit quantity: response data, an `A` operand, a sequence number. -/
abbrev Word := BitVec 32

/-- A value of the 64-bit clock input `now` (spec/42_timer.md R131). -/
abbrev Clock := BitVec 64

/-- A 64-bit command word `cmd[63:0]` (spec/30_encoding.md R60). -/
abbrev CmdWord := BitVec 64

end Sys2Proof
end

