-- ==== Sys2Proof/Syntax.lean ====
section
/-! DEFINITION. Sys2Proof/Syntax.lean: the seventeen commands of GBN-CCT as syntax (spec/30_encoding.md R63,
spec/opcode_table.json), one constructor per row, operands named as R66 names them. Register numbers, buffer
addresses and payload lengths are counts (`Nat`, bounded by `WellFormed`); values, words and bytes are bits. -/

namespace Sys2Proof

/-- The operand of `CSBUF` (R87): bit 0 of `A`. -/
inductive ChecksumMode where
  /-- mode 0: sum the bytes as they are. -/
  | asIs
  /-- mode 1: take bytes 4 and 5 as zero. -/
  | masked
  deriving DecidableEq, Repr

/-- A command with its operands (R63). -/
inductive Instr where
  | nop
  | regrd (reg : Nat)
  | regwr (reg : Nat) (value : Word)
  | fbrd (addr : Nat)
  | fbwr (addr : Nat) (byte : Byte)
  | srst
  | csclr
  | csaddw (word : Half)
  | csaddb (byte : Byte)
  | csbuf (mode : ChecksumMode)
  | encdata (plen : Nat)
  | encack (seq : Word)
  | encclose
  | dec
  | tmarm
  | tmstop
  | tmpoll
  deriving DecidableEq, Repr

/-- The mnemonics of R63, one per row of the opcode map. -/
inductive Mnemonic where
  | nop | regrd | regwr | fbrd | fbwr | srst
  | csclr | csaddw | csaddb | csbuf
  | encdata | encack | encclose | dec
  | tmarm | tmstop | tmpoll
  deriving DecidableEq, Repr

/-- The rows of R63, in the order of the table. -/
def Mnemonic.all : List Mnemonic :=
  [.nop, .regrd, .regwr, .fbrd, .fbwr, .srst, .csclr, .csaddw, .csaddb, .csbuf,
   .encdata, .encack, .encclose, .dec, .tmarm, .tmstop, .tmpoll]

/-- The row of R63 a command belongs to. -/
def Instr.mnemonic : Instr → Mnemonic
  | .nop => .nop
  | .regrd _ => .regrd
  | .regwr _ _ => .regwr
  | .fbrd _ => .fbrd
  | .fbwr _ _ => .fbwr
  | .srst => .srst
  | .csclr => .csclr
  | .csaddw _ => .csaddw
  | .csaddb _ => .csaddb
  | .csbuf _ => .csbuf
  | .encdata _ => .encdata
  | .encack _ => .encack
  | .encclose => .encclose
  | .dec => .dec
  | .tmarm => .tmarm
  | .tmstop => .tmstop
  | .tmpoll => .tmpoll

end Sys2Proof
end

