-- ==== Sys2Proof/WellFormed.lean ====
section
/-! DEFINITION. Sys2Proof/WellFormed.lean: which terms of `Instr` are commands. R61 and R66: the `B` operand is
16 bits, and an operand too large for its field is an assembly error, not a command. The other operands carry
their field's width in their type. Whether a register exists, an address lies in the buffer or a length is
within `MSS` is NOT well-formedness: R64 leaves those checks to the command's own rule. -/

namespace Sys2Proof

/-- The command's operands fit the fields of the command word (R61). -/
def Instr.wellFormed : Instr → Bool
  | .regrd reg => reg < 65536
  | .regwr reg _ => reg < 65536
  | .fbrd addr => addr < 65536
  | .fbwr addr _ => addr < 65536
  | .encdata plen => plen < 65536
  | .nop | .srst | .csclr | .csaddw _ | .csaddb _ | .csbuf _ => true
  | .encack _ | .encclose | .dec | .tmarm | .tmstop | .tmpoll => true

end Sys2Proof
end

