-- ==== Sys2Proof/Decode.lean ====
section
/-! DEFINITION. Sys2Proof/Decode.lean: the opcode map of spec/30_encoding.md R63, the decoder R64 (total on every
64-bit word, rejecting by name) and, after it, the encoder R60. -/

namespace Sys2Proof

/-! ### Fields of a command word (R60) -/

/-- `OPC = cmd[63:56]`. -/
def CmdWord.opc (w : CmdWord) : BitVec 8 := w.extractLsb' 56 8
/-- `RSV = cmd[55:48]`. -/
def CmdWord.rsv (w : CmdWord) : BitVec 8 := w.extractLsb' 48 8
/-- `B = cmd[47:32]`. -/
def CmdWord.b (w : CmdWord) : BitVec 16 := w.extractLsb' 32 16
/-- `A = cmd[31:0]`. -/
def CmdWord.a (w : CmdWord) : BitVec 32 := w.extractLsb' 0 32

/-! ### The opcode map (R63): mask and match of each row, as the table writes them -/

/-- The column `mask` of R63. -/
def Mnemonic.mask : Mnemonic → CmdWord
  | .nop      => 0xFFFFFFFFFFFFFFFF
  | .regrd    => 0xFFFF0000FFFFFFFF
  | .regwr    => 0xFFFF000000000000
  | .fbrd     => 0xFFFF0000FFFFFFFF
  | .fbwr     => 0xFFFF0000FFFFFF00
  | .srst     => 0xFFFFFFFFFFFFFFFF
  | .csclr    => 0xFFFFFFFFFFFFFFFF
  | .csaddw   => 0xFFFFFFFFFFFF0000
  | .csaddb   => 0xFFFFFFFFFFFFFF00
  | .csbuf    => 0xFFFFFFFFFFFFFFFE
  | .encdata  => 0xFFFF0000FFFFFFFF
  | .encack   => 0xFFFFFFFF00000000
  | .encclose => 0xFFFFFFFFFFFFFFFF
  | .dec      => 0xFFFFFFFFFFFFFFFF
  | .tmarm    => 0xFFFFFFFFFFFFFFFF
  | .tmstop   => 0xFFFFFFFFFFFFFFFF
  | .tmpoll   => 0xFFFFFFFFFFFFFFFF

/-- The column `match` of R63. -/
def Mnemonic.pattern : Mnemonic → CmdWord
  | .nop      => 0x0000000000000000
  | .regrd    => 0x0100000000000000
  | .regwr    => 0x0200000000000000
  | .fbrd     => 0x0300000000000000
  | .fbwr     => 0x0400000000000000
  | .srst     => 0x0500000000000000
  | .csclr    => 0x1000000000000000
  | .csaddw   => 0x1100000000000000
  | .csaddb   => 0x1200000000000000
  | .csbuf    => 0x1300000000000000
  | .encdata  => 0x2000000000000000
  | .encack   => 0x2100000000000000
  | .encclose => 0x2200000000000000
  | .dec      => 0x2300000000000000
  | .tmarm    => 0x3000000000000000
  | .tmstop   => 0x3100000000000000
  | .tmpoll   => 0x3200000000000000

/-- A word selects the row when `c AND mask = match` (R63). -/
def Mnemonic.selects (m : Mnemonic) (w : CmdWord) : Bool := (w &&& m.mask) == m.pattern

/-- Operand assembly (R61): the command of row `m` whose operands are in the fields `b` and `a`; a command
that uses part of `A` uses its low bits. -/
def Mnemonic.withOperands (m : Mnemonic) (b : BitVec 16) (a : BitVec 32) : Instr :=
  match m with
  | .nop      => .nop
  | .regrd    => .regrd b.toNat
  | .regwr    => .regwr b.toNat a
  | .fbrd     => .fbrd b.toNat
  | .fbwr     => .fbwr b.toNat (a.extractLsb' 0 8)
  | .srst     => .srst
  | .csclr    => .csclr
  | .csaddw   => .csaddw (a.extractLsb' 0 16)
  | .csaddb   => .csaddb (a.extractLsb' 0 8)
  | .csbuf    => .csbuf (if a.getLsbD 0 then .masked else .asIs)
  | .encdata  => .encdata b.toNat
  | .encack   => .encack a
  | .encclose => .encclose
  | .dec      => .dec
  | .tmarm    => .tmarm
  | .tmstop   => .tmstop
  | .tmpoll   => .tmpoll

/-- Why a word is illegal (the three cases R65 lists). All three are answered alike, with `ERR_ILLEGAL`. -/
inductive IllegalWord where
  /-- `OPC` is one of the 239 unassigned values. -/
  | unknownOpcode
  /-- `OPC` is assigned and `RSV` is not 0. -/
  | reservedNotZero
  /-- `OPC` is assigned, `RSV` is 0, and a must-be-zero operand bit is 1. -/
  | operandBitNotZero
  deriving DecidableEq, Repr

/-- `OPC` is one of the seventeen assigned opcodes. -/
def CmdWord.opcAssigned (w : CmdWord) : Bool :=
  Mnemonic.all.any fun m => CmdWord.opc w == CmdWord.opc m.pattern

/-- The name of the reason a word that selects no row is illegal (R65). -/
def CmdWord.whyIllegal (w : CmdWord) : IllegalWord :=
  if !CmdWord.opcAssigned w then .unknownOpcode
  else if CmdWord.rsv w ≠ 0 then .reservedNotZero
  else .operandBitNotZero

/-- The decoder (R64): test the word against the seventeen rows; if none matches the word is illegal. It
looks at no state. -/
def decode (w : CmdWord) : Except IllegalWord Instr :=
  match Mnemonic.all.find? fun m => m.selects w with
  | some m => .ok (m.withOperands (CmdWord.b w) (CmdWord.a w))
  | none   => .error (CmdWord.whyIllegal w)

/-! ### The encoder (R60): `OPC`, `RSV = 0`, `B`, `A` -/

/-- The column `OPC` of R63. -/
def Instr.opcode : Instr → BitVec 8
  | .nop => 0x00
  | .regrd _ => 0x01
  | .regwr _ _ => 0x02
  | .fbrd _ => 0x03
  | .fbwr _ _ => 0x04
  | .srst => 0x05
  | .csclr => 0x10
  | .csaddw _ => 0x11
  | .csaddb _ => 0x12
  | .csbuf _ => 0x13
  | .encdata _ => 0x20
  | .encack _ => 0x21
  | .encclose => 0x22
  | .dec => 0x23
  | .tmarm => 0x30
  | .tmstop => 0x31
  | .tmpoll => 0x32

/-- The field `B` of a command: its operand, or 0 (R61, R63). -/
def Instr.fieldB : Instr → BitVec 16
  | .regrd reg => BitVec.ofNat 16 reg
  | .regwr reg _ => BitVec.ofNat 16 reg
  | .fbrd addr => BitVec.ofNat 16 addr
  | .fbwr addr _ => BitVec.ofNat 16 addr
  | .encdata plen => BitVec.ofNat 16 plen
  | .nop | .srst | .csclr | .csaddw _ | .csaddb _ | .csbuf _ => 0
  | .encack _ | .encclose | .dec | .tmarm | .tmstop | .tmpoll => 0

/-- The field `A` of a command: its operand, zero-extended, or 0 (R61, R63). -/
def Instr.fieldA : Instr → BitVec 32
  | .regwr _ value => value
  | .fbwr _ byte => byte.setWidth 32
  | .csaddw word => word.setWidth 32
  | .csaddb byte => byte.setWidth 32
  | .csbuf .asIs => 0
  | .csbuf .masked => 1
  | .encack seq => seq
  | .nop | .regrd _ | .fbrd _ | .srst | .csclr | .encdata _ => 0
  | .encclose | .dec | .tmarm | .tmstop | .tmpoll => 0

/-- The command word of a well-formed command (R60). -/
def encode (i : Instr) : CmdWord := i.opcode ++ (0 : BitVec 8) ++ i.fieldB ++ i.fieldA

/-! ### The words of spec/opcode_table.json -/

/-- The 64-bit command word whose low `nbits` bits are those of `w` and whose other bits are 0; a command is
one 64-bit word (R60), so the table's bit numbering is the word's own. -/
def tableWord (nbits w : Nat) : CmdWord := BitVec.ofNat 64 (w % 2 ^ nbits)

/-- What the decoder reads from a word of the opcode table; no command is longer than 64 bits. -/
def decodeTableWord (nbits w : Nat) : Option Instr :=
  if nbits ≤ 64 then
    match decode (tableWord nbits w) with
    | .ok i => some i
    | .error _ => none
  else none

end Sys2Proof
end

