-- ==== Sys2Proof/Config.lean ====
section
/-! DEFINITION. Sys2Proof/Config.lean: what an implementation of GBN-CCT fixes (spec/00_scope.md R6, the
parameters the spec leaves OPEN) and the one free value of the model (the frame buffer's contents after a
hardware reset, spec/70_reset_and_hazards.md R202). -/

namespace Sys2Proof

/-- The parameters of the block that the spec leaves to the model's argument (R6). They are plain data, so
that every claim about every state holds for every value of them; no step changes them. `TICK` is not here:
no rule depends on it (R6; log entry 3). -/
structure Params where
  /-- `MSS_MAX`: the largest payload the frame buffer holds, in bytes. -/
  mssMax : Nat
  /-- `SEQ_MOD`: the modulus of the sequence counter; the value itself is the sentinel. -/
  seqMod : Nat
  /-- `TMO_RESET`: the value of `TMO` after reset, in ticks. Its width is its constraint. -/
  tmoReset : Word
  deriving DecidableEq, Repr

/-- The ranges R6 gives the parameters; `TMO_RESET`'s is its type. -/
abbrev Params.Legal (p : Params) : Prop :=
  (1 ≤ p.mssMax ∧ p.mssMax ≤ 65528) ∧ (2 ≤ p.seqMod ∧ p.seqMod ≤ 0xFFFFFFFF)

/-- `FB_SIZE = MSS_MAX + 8` (R6, R27, R40). -/
abbrev Params.fbSize (p : Params) : Nat := p.mssMax + 8

/-- The values spec/95_test_vectors.md uses: `MSS_MAX = 1024`, `SEQ_MOD = 0xFFFF` (R6's default),
`TMO_RESET = 1000`. DESIGN CHOICE (log entry 2): the one machine `State.reset` stands for. -/
def Params.vectors : Params := ⟨1024, 0xFFFF, 1000⟩

/-- `ID_VALUE`, fixed by R6 and R25: "GBN", then 0x01. -/
def Config.idValue : Word := 0x47424E01

/-- FREE VALUE (log entry 1): `Config.fbInit e a` is the byte that frame-buffer address `a` holds after the
`e`-th hardware reset when no command has written it since (R27, R46, R202: unspecified, stable between
writes, not necessarily the same after two resets). It has no body: nothing can be proved of its value. -/
opaque Config.fbInit : Nat → Nat → Byte

end Sys2Proof
end

