-- ==== Sys2Proof/Machine/State.lean ====
section
/-! DEFINITION. Sys2Proof/Machine/State.lean: everything the spec gives GBN-CCT, as plain data (spec/10_state.md R10:
the fifteen registers and the frame buffer), the parameters (R6), and what stands at its ports
(R29, R30): the response being presented, the clock input, the port activity still to come, and the responses the
host has taken. -/

namespace Sys2Proof.Machine

/-- The errors a command can raise (spec/60_exceptions.md R170), code 0 being `OK`. -/
inductive ErrCode where
  /-- 1: the command word matches no row of the opcode map. -/
  | illegal
  /-- 2: register number `>= 15`, or buffer address `>= FB_SIZE`. -/
  | addr
  /-- 3: `REGWR` to a register that is not writable. -/
  | ro
  /-- 4: `REGWR` of a value outside the register's legal range. -/
  | value
  /-- 5: `ENCDATA` with `plen > MSS`, or `DEC` with `FLEN < 8`. -/
  | len
  deriving DecidableEq, Repr

/-- The field `STATUS` of a response (spec/30_encoding.md R62): `OK`, or an error code. -/
inductive Status where
  | ok
  | err (e : ErrCode)
  deriving DecidableEq, Repr

/-- A response (R62): `rsp[39:32]` and `rsp[31:0]`. -/
structure Response where
  status : Status
  data   : Word
  deriving DecidableEq, Repr

/-- What the environment drives on the input ports at one step (spec/10_state.md R30). -/
structure PortIn where
  /-- `rst`, sampled at the step. -/
  rst      : Bool
  /-- `cmd_valid` and `cmd`: the command word presented, or none. -/
  cmd      : Option CmdWord
  /-- `rsp_ready`. -/
  rspReady : Bool
  /-- `now`. -/
  now      : Clock
  deriving DecidableEq, Repr

/-- The frame buffer's contents: the bytes written since the last hardware reset, by address
(R27, R40). An address that is not listed holds no written byte. Canonical form: `Memory.wf`. -/
abbrev Memory := List Host.Cell

/-- The state of GBN-CCT. `par` is the configuration and never changes; the registers are those of R11
(`ID` is the constant `Config.idValue`; `TMCTL` is a view of `armed`, `DLLO` and `DLHI` of `deadline`). The last
four fields are the ports' side (R29, R30, R31): the spec's inputs and outputs, not state of the block. -/
@[ext]
structure State where
  /-- The parameters of R6. -/
  par       : Params
  /-- `ERRS`, register 1 (R26). -/
  errs      : BitVec 6
  /-- `MSS`, register 2 (R16). -/
  mss       : BitVec 16
  /-- `FLEN`, register 3 (R15). -/
  flen      : BitVec 17
  /-- `SEQ`, register 4 (R14). -/
  seq       : BitVec 32
  /-- `ACC`, register 5 (R13). -/
  acc       : BitVec 16
  /-- `RXSEQ`, register 6 (R17). -/
  rxseq     : BitVec 32
  /-- `RXCSUM`, register 7 (R18). -/
  rxcsum    : BitVec 16
  /-- `RXFLAG`, register 8 (R19). -/
  rxflag    : BitVec 16
  /-- `RXPLEN`, register 9 (R20). -/
  rxplen    : BitVec 16
  /-- `RXSTAT`, register 10 (R21). -/
  rxstat    : BitVec 5
  /-- `TMO`, register 11 (R22). -/
  tmo       : BitVec 32
  /-- `ARMED`, bit 0 of `TMCTL`, register 12 (R23). -/
  armed     : Bool
  /-- `DEADLINE`, registers 13 (`DLLO`) and 14 (`DLHI`) (R24). -/
  deadline  : BitVec 64
  /-- `FB`: the bytes written since the last hardware reset (R27). -/
  fb        : Memory
  /-- The model's own: how many hardware resets came before; selects the free bytes of `Config.fbInit`. -/
  fbEpoch   : Nat
  /-- `rsp_valid` and `rsp`: the response presented to the host, if a command has run and its response has
  not been delivered (R31). -/
  rsp       : Option Response
  /-- The value of the `now` input at the current step (R29 (b)). -/
  now       : Clock
  /-- What the environment will drive on the input ports, next first (R29 (a), R30). -/
  inputs    : List PortIn
  /-- The responses the host has taken, oldest first (R31). -/
  delivered : List Response
  deriving DecidableEq, Repr

/-- No step of this model faults: every command, legal or not, in every state, completes with exactly one
response, and the block has no stuck state (spec/60_exceptions.md R175). Nothing raises a fault, so the type has no
constructor; that is safe, since it only says what R175 says. -/
inductive Fault where
  deriving DecidableEq, Repr

/-- The reasons an instruction has no meaning in this model. -/
inductive Refusal where
  /-- Raised by an arm of `exec` for a command that has no meaning yet, with the table's mnemonic; no arm
  does so now. Safe: nothing is claimed of such a command. -/
  | notModelled (mnemonic : String)
  deriving DecidableEq, Repr

/-- The state right after a hardware reset of a block with the parameters `p` (R32, R201), with `epoch` resets
before it: nothing written to `FB` (R202), no command in progress, no port activity to come. -/
def State.resetWith (p : Params) (epoch : Nat) : State where
  par       := p
  errs      := 0
  mss       := BitVec.ofNat 16 p.mssMax
  flen      := 0
  seq       := 0
  acc       := 0
  rxseq     := 0
  rxcsum    := 0
  rxflag    := 0
  rxplen    := 0
  rxstat    := 0
  tmo       := p.tmoReset
  armed     := false
  deadline  := 0
  fb        := []
  fbEpoch   := epoch
  rsp       := none
  now       := 0
  inputs    := []
  delivered := []

/-- The machine right after reset (R201), with the parameters of the spec's test vectors. DESIGN CHOICE (log
entries 2, 4): the parameters and the starting values of the fields that are not the spec's (`fbEpoch`,
`now`, `inputs`, `delivered`). -/
def State.reset : State := State.resetWith Params.vectors 0

end Sys2Proof.Machine
end

