-- ==== Sys2Proof/Machine/Ops.lean ====
section
/-! DEFINITION. Sys2Proof/Machine/Ops.lean: the shared operations: bytes and big-endian fields of the frame buffer
(spec/00_scope.md R7, spec/20_memory.md R40 and R41), `respond` and `raise` (R7, spec/60_exceptions.md R172), reset
(spec/10_state.md R32), the checksum functions (spec/40_checksum.md R81 to R83), header writing and sealing
(spec/41_codec.md R102) and the sequence successor (R103). -/

namespace Sys2Proof.Machine

/-! ### The written bytes: a list of cells in canonical form -/

/-- The byte written at an address since the last hardware reset, if any. -/
def Memory.get? : Memory → Nat → Option Byte
  | [], _ => none
  | c :: m, a => if c.1 = a then some c.2 else Memory.get? m a

/-- Writing one byte, keeping the addresses strictly rising. -/
def Memory.put : Memory → Nat → Byte → Memory
  | [], a, b => [(a, b)]
  | c :: m, a, b =>
    if a < c.1 then (a, b) :: c :: m
    else if a = c.1 then (a, b) :: m
    else c :: Memory.put m a b

/-- The canonical form: addresses strictly rising. (An unlisted address holds no written byte, so no listed
byte equals what an unlisted address holds.) -/
abbrev Memory.wf (m : Memory) : Prop := m.Pairwise fun c d => c.1 < d.1

/-! ### Big-endian numbers (R7, R41) -/

/-- `be16(b0, b1)`: the byte at the lower address is the more significant. -/
def be16 (b0 b1 : Byte) : Half := b0 ++ b1

/-- `be32(b0, b1, b2, b3)`. -/
def be32 (b0 b1 b2 b3 : Byte) : Word := b0 ++ b1 ++ b2 ++ b3

/-! ### Reading and writing the frame buffer (R7 `MemRead`, `MemWrite`) -/

/-- `FB[a]`: the byte last written, or the free byte the last hardware reset left there (R46, R48). -/
def State.readByte (s : State) (a : Nat) : Byte :=
  match s.fb.get? a with
  | some b => b
  | none   => Config.fbInit s.fbEpoch a

/-- `MemRead(a, 2)`. -/
def State.readHalf (s : State) (a : Nat) : Half := be16 (s.readByte a) (s.readByte (a + 1))

/-- `MemRead(a, 4)`. -/
def State.readWord (s : State) (a : Nat) : Word :=
  be32 (s.readByte a) (s.readByte (a + 1)) (s.readByte (a + 2)) (s.readByte (a + 3))

/-- `MemWrite(a, 1, b)`. -/
def State.writeByte (s : State) (a : Nat) (b : Byte) : State := { s with fb := s.fb.put a b }

/-- The big-endian image of a 16-bit value, written at `a`. -/
def Memory.putHalf (m : Memory) (a : Nat) (v : Half) : Memory :=
  (m.put a (v.extractLsb' 8 8)).put (a + 1) (v.extractLsb' 0 8)

/-- The big-endian image of a 32-bit value, written at `a`. -/
def Memory.putWord (m : Memory) (a : Nat) (v : Word) : Memory :=
  (m.putHalf a (v.extractLsb' 16 16)).putHalf (a + 2) (v.extractLsb' 0 16)

/-- `MemWrite(a, 2, v)`. -/
def State.writeHalf (s : State) (a : Nat) (v : Half) : State := { s with fb := s.fb.putHalf a v }

/-- `MemWrite(a, 4, v)`. -/
def State.writeWord (s : State) (a : Nat) (v : Word) : State := { s with fb := s.fb.putWord a v }

/-! ### Ending a command: `respond` and `raise` -/

/-- The number of an error (R170). -/
def ErrCode.code : ErrCode → Nat
  | .illegal => 1
  | .addr    => 2
  | .ro      => 3
  | .value   => 4
  | .len     => 5

/-- The 8-bit field `STATUS` (R62, R170). -/
def Status.code : Status → BitVec 8
  | .ok    => 0
  | .err e => BitVec.ofNat 8 e.code

/-- The 40-bit response word (R62). -/
def Response.word (r : Response) : BitVec 40 := r.status.code ++ r.data

/-- The bit of `ERRS` an error sets (R26). -/
def ErrCode.bit (e : ErrCode) : BitVec 6 := 1#6 <<< e.code

/-- `respond(data)` (R7): the command ends with status `OK`. -/
def respond (data : Word) (s : State) : Host.Outcome State Fault Refusal :=
  .next { s with rsp := some ⟨.ok, data⟩ }

/-- `raise ERR_X` (R172), the block's one exception: nothing changes but the sticky bit, and the response is
the status with data 0. Control goes nowhere and there is nothing to return from (R174). -/
def raise (e : ErrCode) (s : State) : Host.Outcome State Fault Refusal :=
  .next { s with errs := s.errs ||| e.bit, rsp := some ⟨.err e, 0⟩ }

/-! ### Reset (R32, R156, R200 to R203) -/

/-- Every register at its reset value; `FB` as it is (the column "After `SRST`" of R32). -/
def State.resetRegisters (s : State) : State :=
  { s with
    errs := 0, mss := BitVec.ofNat 16 s.par.mssMax, flen := 0, seq := 0, acc := 0
    rxseq := 0, rxcsum := 0, rxflag := 0, rxplen := 0, rxstat := 0
    tmo := s.par.tmoReset, armed := false, deadline := 0 }

/-- The hardware reset (R200, R201): the registers at their reset values, every byte of `FB` unspecified
(R202: a new choice of free bytes), and the response of a command in progress discarded (R203). -/
def State.hardReset (s : State) : State :=
  { s.resetRegisters with fb := [], fbEpoch := s.fbEpoch + 1, rsp := none }

/-! ### The checksum functions -/

/-- One's-complement addition (R81): the exact sum, less `0xFFFF` if it exceeds `0xFFFF`. -/
def ocAdd16 (a b : Half) : Half :=
  let s := a.toNat + b.toNat
  if s > 0xFFFF then BitVec.ofNat 16 (s - 0xFFFF) else BitVec.ofNat 16 s

/-- The sum of the first `k` whole words (the loop of R82), in increasing address order. -/
def sumWords (bytes : Nat → Byte) : Nat → Half
  | 0 => 0
  | k + 1 => ocAdd16 (sumWords bytes k) (be16 (bytes (2 * k)) (bytes (2 * k + 1)))

/-- `cksum(bytes, n)` (R82): the whole words, then a trailing byte as the high byte of a last word; not
inverted (R88). -/
def cksum (bytes : Nat → Byte) (n : Nat) : Half :=
  if n % 2 = 1 then ocAdd16 (sumWords bytes (n / 2)) (be16 (bytes (n - 1)) 0)
  else sumWords bytes (n / 2)

/-- Bytes 4 and 5 taken as zero (R83). -/
def maskField (bytes : Nat → Byte) (a : Nat) : Byte := if a = 4 ∨ a = 5 then 0 else bytes a

/-- `cksum_masked(bytes, n)` (R83). -/
def cksumMasked (bytes : Nat → Byte) (n : Nat) : Half := cksum (maskField bytes) n

/-! ### Framing (R102, R103) -/

/-- `put_header(s, f)` (R102): sequence number, zeroed checksum field, flag. -/
def State.putHeader (s : State) (seq : Word) (flag : Half) : State :=
  ((s.writeWord 0 seq).writeHalf 4 0).writeHalf 6 flag

/-- The checksum `seal()` computes (R102). -/
def State.frameChecksum (s : State) : Half := cksumMasked s.readByte s.flen.toNat

/-- `seal()` (R102): embed the checksum of the frame and leave it in `ACC`. -/
def State.seal (s : State) : State :=
  { s.writeHalf 4 s.frameChecksum with acc := s.frameChecksum }

/-- The frame the encode commands build: header, `FLEN`, seal (R105 to R107). -/
def State.frame (s : State) (seq : Word) (flag : Half) (plen : Nat) : State :=
  State.seal { s.putHeader seq flag with flen := BitVec.ofNat 17 (8 + plen) }

/-- `seq_next(s)` (R103): the successor modulo `SEQ_MOD`. -/
def seqNext (p : Params) (s : Word) : Word :=
  if s.toNat + 1 ≥ p.seqMod then 0 else BitVec.ofNat 32 (s.toNat + 1)

end Sys2Proof.Machine
end

