-- ==== Sys2Proof/Machine/Operands.lean ====
section
/-! DEFINITION. Sys2Proof/Machine/Operands.lean: what the `B` operand names (spec/43_access_control.md R151): a register of
the map of spec/10_state.md R11, read as a 32-bit value and written where R153 allows it, or a byte of the frame
buffer (spec/20_memory.md R45). -/

namespace Sys2Proof.Machine

/-- The registers of R11. -/
inductive Reg where
  | id | errs | mss | flen | seq | acc | rxseq | rxcsum | rxflag | rxplen | rxstat | tmo | tmctl | dllo | dlhi
  deriving DecidableEq, Repr

/-- The column "No." of R11; 15 and above do not exist. -/
def Reg.ofNumber? : Nat → Option Reg
  | 0 => some .id
  | 1 => some .errs
  | 2 => some .mss
  | 3 => some .flen
  | 4 => some .seq
  | 5 => some .acc
  | 6 => some .rxseq
  | 7 => some .rxcsum
  | 8 => some .rxflag
  | 9 => some .rxplen
  | 10 => some .rxstat
  | 11 => some .tmo
  | 12 => some .tmctl
  | 13 => some .dllo
  | 14 => some .dlhi
  | _ + 15 => none

/-- `x[n]` as `REGRD` reads it (R11): zero-extended; `ID` is the constant of R25; `TMCTL` is `ARMED` in bit 0 (R23);
`DLLO` and `DLHI` are the halves of `DEADLINE` (R24). -/
def State.readReg (s : State) : Reg → Word
  | .id     => Config.idValue
  | .errs   => s.errs.setWidth 32
  | .mss    => s.mss.setWidth 32
  | .flen   => s.flen.setWidth 32
  | .seq    => s.seq
  | .acc    => s.acc.setWidth 32
  | .rxseq  => s.rxseq
  | .rxcsum => s.rxcsum.setWidth 32
  | .rxflag => s.rxflag.setWidth 32
  | .rxplen => s.rxplen.setWidth 32
  | .rxstat => s.rxstat.setWidth 32
  | .tmo    => s.tmo
  | .tmctl  => (BitVec.ofBool s.armed).setWidth 32
  | .dllo   => s.deadline.extractLsb' 0 32
  | .dlhi   => s.deadline.extractLsb' 32 32

/-- `REGWR reg, value` after the register number is known to exist (R153, in R173's order): the error it raises, or
the state with that one register written. Only `MSS`, `FLEN`, `SEQ` and `TMO` are writable. -/
def State.writeReg (s : State) (r : Reg) (v : Word) : Except ErrCode State :=
  match r with
  | .mss  => if 1 ≤ v.toNat ∧ v.toNat ≤ s.par.mssMax then .ok { s with mss := v.setWidth 16 } else .error .value
  | .flen => if v.toNat ≤ s.par.fbSize then .ok { s with flen := v.setWidth 17 } else .error .value
  | .seq  => if v.toNat ≤ s.par.seqMod - 1 then .ok { s with seq := v } else .error .value
  | .tmo  => .ok { s with tmo := v }
  | .id | .errs | .acc | .rxseq | .rxcsum | .rxflag | .rxplen | .rxstat | .tmctl | .dllo | .dlhi => .error .ro

/-- The address of `FBRD` and `FBWR` names a byte of the buffer (R45). -/
abbrev State.FbHas (s : State) (a : Nat) : Prop := a < s.par.fbSize

end Sys2Proof.Machine
end

