-- ==== Sys2Proof/Machine/Access.lean ====
section
/-! DEFINITION. Sys2Proof/Machine/Access.lean: the access and control commands NOP, REGRD, REGWR, FBRD, FBWR, SRST
(spec/43_access_control.md R150 to R156). -/

namespace Sys2Proof.Machine

/-- `NOP` (R150). -/
def execNop (s : State) : Host.Outcome State Fault Refusal := respond 0 s

/-- `REGRD reg` (R152). -/
def execRegrd (reg : Nat) (s : State) : Host.Outcome State Fault Refusal :=
  match Reg.ofNumber? reg with
  | none   => raise .addr s
  | some r => respond (s.readReg r) s

/-- `REGWR reg, value` (R153), the checks in the order written. -/
def execRegwr (reg : Nat) (value : Word) (s : State) : Host.Outcome State Fault Refusal :=
  match Reg.ofNumber? reg with
  | none   => raise .addr s
  | some r =>
    match s.writeReg r value with
    | .error e => raise e s
    | .ok s'   => respond 0 s'

/-- `FBRD addr` (R154). -/
def execFbrd (addr : Nat) (s : State) : Host.Outcome State Fault Refusal :=
  if s.FbHas addr then respond ((s.readByte addr).setWidth 32) s else raise .addr s

/-- `FBWR addr, byte` (R155). -/
def execFbwr (addr : Nat) (byte : Byte) (s : State) : Host.Outcome State Fault Refusal :=
  if s.FbHas addr then respond 0 (s.writeByte addr byte) else raise .addr s

/-- `SRST` (R156). -/
def execSrst (s : State) : Host.Outcome State Fault Refusal := respond 0 s.resetRegisters

end Sys2Proof.Machine
end

