-- ==== Sys2Proof/Machine/Checksum.lean ====
section
/-! DEFINITION. Sys2Proof/Machine/Checksum.lean: the checksum unit's commands CSCLR, CSADDW, CSADDB, CSBUF
(spec/40_checksum.md R84 to R87). -/

namespace Sys2Proof.Machine

/-- `ACC <- v; respond(v)`: how the three summing commands end. -/
def respondAcc (v : Half) (s : State) : Host.Outcome State Fault Refusal :=
  respond (v.setWidth 32) { s with acc := v }

/-- `CSCLR` (R84). -/
def execCsclr (s : State) : Host.Outcome State Fault Refusal := respond 0 { s with acc := 0 }

/-- `CSADDW word` (R85). -/
def execCsaddw (word : Half) (s : State) : Host.Outcome State Fault Refusal :=
  respondAcc (ocAdd16 s.acc word) s

/-- `CSADDB byte` (R86): the byte is the high byte of a word whose low byte is 0. -/
def execCsaddb (byte : Byte) (s : State) : Host.Outcome State Fault Refusal :=
  respondAcc (ocAdd16 s.acc (be16 byte 0)) s

/-- `CSBUF mode` (R87). -/
def execCsbuf (mode : ChecksumMode) (s : State) : Host.Outcome State Fault Refusal :=
  match mode with
  | .masked => respondAcc (cksumMasked s.readByte s.flen.toNat) s
  | .asIs   => respondAcc (cksum s.readByte s.flen.toNat) s

end Sys2Proof.Machine
end

