-- ==== Sys2Proof/Machine/Flags.lean ====
section
/-! DEFINITION. Sys2Proof/Machine/Flags.lean: the verdict bits of `RXSTAT` (spec/10_state.md R21, spec/41_codec.md R101, R108) and the
deadline comparator (spec/42_timer.md R133). -/

namespace Sys2Proof.Machine

/-! ### Verdicts -/

/-- The flag values of R101. -/
def flagData : Half := 0x5555
/-- ACK (R101). -/
def flagAck : Half := 0xAAAA
/-- CLOSE (R101). -/
def flagClose : Half := 0xFFFF

/-- The kinds of R101; `invalid` is every flag value that is none of the three. -/
inductive Kind where
  | invalid | data | ack | close
  deriving DecidableEq, Repr

/-- The `KIND` code of `RXSTAT` (R21, R101). -/
def Kind.code : Kind → BitVec 2
  | .invalid => 0
  | .data    => 1
  | .ack     => 2
  | .close   => 3

/-- `kind_of(f)` (R101). -/
def kindOf (f : Half) : Kind :=
  if f = flagData then .data
  else if f = flagAck then .ack
  else if f = flagClose then .close
  else .invalid

/-- `LEN_OK` (R21, R108): the payload length is legal for the kind. -/
def lenOk (k : Kind) (plen mss : Half) : Bool :=
  match k with
  | .invalid => false
  | .data    => plen.toNat ≤ mss.toNat
  | .ack     => plen = 0
  | .close   => plen = 0

/-- `RXSTAT` (R108): `VALID`, `LEN_OK`, `KIND`, `CSUM_OK` from bit 4 down to bit 0. -/
def rxstatOf (csumOk : Bool) (k : Kind) (lenOk : Bool) : BitVec 5 :=
  BitVec.ofBool (csumOk && lenOk) ++ BitVec.ofBool lenOk ++ k.code ++ BitVec.ofBool csumOk

/-! ### The comparator -/

/-- `reached(t)` (R133): `t` is at or after the deadline, in modular arithmetic. -/
def State.reached (s : State) (t : Clock) : Bool := (t - s.deadline).toNat < 2 ^ 63

/-- `expired(t)` (R133), and the `expired` output at clock value `t` (R30, R53). -/
def State.expired (s : State) (t : Clock) : Bool := s.armed && s.reached t

end Sys2Proof.Machine
end

