-- ==== Sys2Proof/Machine/Codec.lean ====
section
/-! DEFINITION. Sys2Proof/Machine/Codec.lean: the codec unit's commands ENCDATA, ENCACK, ENCCLOSE, DEC
(spec/41_codec.md R105 to R108). -/

namespace Sys2Proof.Machine

/-- `ENCDATA plen` (R105): the only command that advances `SEQ` (R104). -/
def execEncdata (plen : Nat) (s : State) : Host.Outcome State Fault Refusal :=
  if plen > s.mss.toNat then raise .len s
  else respond s.seq { s.frame s.seq flagData plen with seq := seqNext s.par s.seq }

/-- `ENCACK seq` (R106). -/
def execEncack (seq : Word) (s : State) : Host.Outcome State Fault Refusal :=
  let t := s.frame seq flagAck 0
  respond (t.acc.setWidth 32) t

/-- `ENCCLOSE` (R107). -/
def execEncclose (s : State) : Host.Outcome State Fault Refusal :=
  respond s.seq (s.frame s.seq flagClose 0)

/-- The registers a successful `DEC` writes (R108), from the frame `FB[0 .. FLEN-1]`. -/
def State.decoded (s : State) : State :=
  let c := s.frameChecksum
  let csum := s.readHalf 4
  let flag := s.readHalf 6
  let plen := BitVec.ofNat 16 (s.flen.toNat - 8)
  let k := kindOf flag
  { s with
    rxseq := s.readWord 0, rxcsum := csum, rxflag := flag, rxplen := plen, acc := c
    rxstat := rxstatOf (c = csum) k (lenOk k plen s.mss) }

/-- `DEC` (R108). -/
def execDec (s : State) : Host.Outcome State Fault Refusal :=
  if s.flen.toNat < 8 then raise .len s
  else
    let t := s.decoded
    respond (t.rxstat.setWidth 32) t

end Sys2Proof.Machine
end

