-- ==== Sys2Proof/Machine/Timer.lean ====
section
/-! DEFINITION. Sys2Proof/Machine/Timer.lean: the timer unit's commands TMARM, TMSTOP, TMPOLL (spec/42_timer.md R134 to R136).
Each samples `now` once, at the moment it executes (R131): the field `now` of the state. -/

namespace Sys2Proof.Machine

/-- `TMARM` (R132, R134). -/
def execTmarm (s : State) : Host.Outcome State Fault Refusal :=
  let d := s.now + s.tmo.setWidth 64
  respond (d.extractLsb' 0 32) { s with deadline := d, armed := true }

/-- `TMSTOP` (R135). -/
def execTmstop (s : State) : Host.Outcome State Fault Refusal := respond 0 { s with armed := false }

/-- `TMPOLL` (R136): data bit 1 is `ARMED`, bit 0 whether the timer has expired. -/
def execTmpoll (s : State) : Host.Outcome State Fault Refusal :=
  respond ((BitVec.ofBool s.armed ++ BitVec.ofBool (s.expired s.now)).setWidth 32) s

end Sys2Proof.Machine
end

