-- ==== Sys2Proof/Machine/Dispatch.lean ====
section
/-! DEFINITION. Sys2Proof/Machine/Dispatch.lean: one arm per command (spec/30_encoding.md R63, column Semantics). -/

namespace Sys2Proof.Machine

def exec (i : Instr) (s : State) : Host.Outcome State Fault Refusal :=
  match i with
  | .nop => Sys2Proof.Machine.execNop s
  | .regrd reg => Sys2Proof.Machine.execRegrd reg s
  | .regwr reg value => Sys2Proof.Machine.execRegwr reg value s
  | .fbrd addr => Sys2Proof.Machine.execFbrd addr s
  | .fbwr addr byte => Sys2Proof.Machine.execFbwr addr byte s
  | .srst => Sys2Proof.Machine.execSrst s
  | .csclr => Sys2Proof.Machine.execCsclr s
  | .csaddw word => Sys2Proof.Machine.execCsaddw word s
  | .csaddb byte => Sys2Proof.Machine.execCsaddb byte s
  | .csbuf mode => Sys2Proof.Machine.execCsbuf mode s
  | .encdata plen => Sys2Proof.Machine.execEncdata plen s
  | .encack seq => Sys2Proof.Machine.execEncack seq s
  | .encclose => Sys2Proof.Machine.execEncclose s
  | .dec => Sys2Proof.Machine.execDec s
  | .tmarm => Sys2Proof.Machine.execTmarm s
  | .tmstop => Sys2Proof.Machine.execTmstop s
  | .tmpoll => Sys2Proof.Machine.execTmpoll s

end Sys2Proof.Machine
end

