-- ==== Sys2Proof/Machine/Ports.lean ====
section
/-! DEFINITION. Sys2Proof/Machine/Ports.lean: the block at its ports (spec/10_state.md R30, R31; spec/70_reset_and_hazards.md R200 to
R203): taking a command word, the response handshake, reset, the output ports, and a list of commands run in
order (spec/30_encoding.md R68). -/

namespace Sys2Proof.Machine

/-- A command word is issued: decode it (R64) and run the command's rule, or refuse it with `ERR_ILLEGAL`
before any command rule (R65, R173). -/
def issue (w : CmdWord) (s : State) : Host.Outcome State Fault Refusal :=
  match decode w with
  | .ok i    => exec i s
  | .error _ => raise .illegal s

/-- The host takes the response presented (R31): a response is delivered where `rsp_valid` and `rsp_ready`
are both 1. -/
def State.deliver (s : State) : State :=
  match s.rsp with
  | some r => { s with rsp := none, delivered := s.delivered ++ [r] }
  | none   => s

/-- One step at the ports, on the inputs `p` (R30, R31, R200): the reset input goes before everything; while a
response is presented no command is accepted; otherwise a command that is presented is issued and runs to
completion (R8). -/
def serve (p : PortIn) (s : State) : Host.Outcome State Fault Refusal :=
  if p.rst then .next s.hardReset
  else if s.rsp.isSome then .next (if p.rspReady then s.deliver else s)
  else
    match p.cmd with
    | some w => issue w s
    | none   => .next s

/-- The next inputs of the environment are sampled; where there are none, nothing happens (R8). -/
def portStep (s : State) : Host.Outcome State Fault Refusal :=
  match s.inputs with
  | []      => .next s
  | p :: ps => serve p { s with inputs := ps, now := p.now }

/-! ### The output ports (R30) -/

/-- The outputs at one moment. -/
structure PortOut where
  /-- `cmd_ready`. -/
  cmdReady : Bool
  /-- `rsp_valid` and `rsp`. -/
  rsp      : Option (BitVec 40)
  /-- `expired`. -/
  expired  : Bool
  deriving DecidableEq, Repr

/-- The outputs while the inputs are `p` (R30, R31, R133, R200): in reset the block accepts no command and presents no
response; `expired` follows `now`. -/
def State.outputs (s : State) (p : PortIn) : PortOut where
  cmdReady := !p.rst && s.rsp.isNone
  rsp      := if p.rst then none else s.rsp.map Response.word
  expired  := s.expired p.now

/-! ### Programs: a list of commands, each with the clock value it would sample (R68) -/

/-- What a host drives that issues each command of the list and takes its response at the next step. -/
def hostInputs : List (CmdWord × Clock) → List PortIn
  | [] => []
  | c :: cs => ⟨false, some c.1, false, c.2⟩ :: ⟨false, none, true, c.2⟩ :: hostInputs cs

/-- The commands of the list, one atomic command-and-response after the other, strictly in list order
(R8, R31, R68). -/
def runCommands : List (CmdWord × Clock) → State → Host.Outcome State Fault Refusal
  | [], s => .next s
  | c :: cs, s =>
    match issue c.1 { s with now := c.2 } with
    | .next t    => runCommands cs t.deliver
    | .fault f   => .fault f
    | .refused r => .refused r

end Sys2Proof.Machine
end

