-- ==== Sys2Proof/Machine/Step.lean ====
section
/-! DEFINITION. Sys2Proof/Machine/Step.lean: one step of the block: the next inputs of the environment are sampled and
served (spec/00_scope.md R8, spec/10_state.md R31). The block has no program counter and fetches nothing (R12): commands come
from the command port. -/

namespace Sys2Proof.Machine

/-- One step (three outcomes; only `next` occurs, R175). -/
def step (s : State) : Host.Outcome State Fault Refusal := portStep s

/-- `s` with the command word presented on the command port at the next step (log entry 5): the word is put
first among the inputs, at the clock value the port shows now, and a response that is still presented counts
as taken. -/
def State.withFetchWord (s : State) (nbits w : Nat) : State :=
  { s with
    rsp := none
    inputs := ⟨false, some (tableWord nbits w), false, s.now⟩ :: s.inputs }

end Sys2Proof.Machine
end

