-- ==== Sys2Proof/Machine/Assembler.lean ====
section
/-! DEFINITION. Sys2Proof/Machine/Assembler.lean: the assembler syntax of spec/30_encoding.md R66 and the pseudo-commands of R67. They
exist for writing programs; no command of the block depends on them. -/

namespace Sys2Proof.Machine

/-! ### Pseudo-commands (R67) -/

/-- `LOADB addr, b0 b1 ... bk`: one `FBWR` per byte, addresses rising. The spec's form has at least one byte; no byte
gives no command (DESIGN CHOICE, log entry 8). -/
def loadBytes (addr : Nat) : List Byte → List Instr
  | [] => []
  | b :: bs => .fbwr addr b :: loadBytes (addr + 1) bs

/-- The pseudo-commands of R67. -/
inductive Pseudo where
  | setlen (n : Word)
  | setmss (n : Word)
  | setseq (n : Word)
  | settmo (n : Word)
  | getacc
  | geterrs
  | loadb (addr : Nat) (bytes : List Byte)
  | loadframe (bytes : List Byte)
  deriving DecidableEq, Repr

/-- The column "Expansion" of R67. `LOADFRAME` with no byte, which the spec's form does not have, expands to
`REGWR 3, 0` (DESIGN CHOICE, log entry 8). -/
def Pseudo.expand : Pseudo → List Instr
  | .setlen n => [.regwr 3 n]
  | .setmss n => [.regwr 2 n]
  | .setseq n => [.regwr 4 n]
  | .settmo n => [.regwr 11 n]
  | .getacc => [.regrd 5]
  | .geterrs => [.regrd 1]
  | .loadb addr bytes => loadBytes addr bytes
  | .loadframe bytes => loadBytes 0 bytes ++ [.regwr 3 (BitVec.ofNat 32 bytes.length)]

/-! ### Lines of text (R66) -/

/-- Why a line is not a command: an assembly error. -/
inductive AsmError where
  | unknownMnemonic
  | badOperand
  | wrongOperandCount
  /-- An operand too large for its field (R66). -/
  | operandTooLarge
  deriving DecidableEq, Repr

def isBlank (c : Char) : Bool := c = ' ' || c = '\t'

/-- A comment runs from `;` to the end of the line. -/
def dropComment : List Char → List Char
  | [] => []
  | c :: cs => if c = ';' then [] else c :: dropComment cs

/-- The pieces between the characters that satisfy `sep`, empty ones included. -/
def pieces (sep : Char → Bool) : List Char → List (List Char)
  | [] => [[]]
  | c :: cs =>
    match pieces sep cs with
    | [] => [[c]]
    | p :: ps => if sep c then [] :: p :: ps else (c :: p) :: ps

/-- The blank-separated words of a text. -/
def words (cs : List Char) : List (List Char) := (pieces isBlank cs).filter fun w => w ≠ []

/-- The value of a digit in the given base, up to 16. -/
def digitValue (base : Nat) (c : Char) : Option Nat :=
  let n := c.toNat
  let v :=
    if 48 ≤ n ∧ n ≤ 57 then n - 48
    else if 65 ≤ n ∧ n ≤ 70 then n - 55
    else if 97 ≤ n ∧ n ≤ 102 then n - 87
    else base
  if v < base then some v else none

/-- A string of digits read on from the value `acc`. -/
def digitsFrom (base acc : Nat) : List Char → Option Nat
  | [] => some acc
  | c :: cs =>
    match digitValue base c with
    | some d => digitsFrom base (acc * base + d) cs
    | none   => none

/-- A number: decimal, or hexadecimal with `0x` (R66). -/
def number : List Char → Option Nat
  | [] => none
  | '0' :: 'x' :: d :: ds => digitsFrom 16 0 (d :: ds)
  | cs => digitsFrom 10 0 cs

/-- The names of the registers (spec/10_state.md R11), at their numbers. -/
def regNames : List (List Char) :=
  [['I', 'D'], ['E', 'R', 'R', 'S'], ['M', 'S', 'S'], ['F', 'L', 'E', 'N'], ['S', 'E', 'Q'], ['A', 'C', 'C'],
   ['R', 'X', 'S', 'E', 'Q'], ['R', 'X', 'C', 'S', 'U', 'M'], ['R', 'X', 'F', 'L', 'A', 'G'],
   ['R', 'X', 'P', 'L', 'E', 'N'], ['R', 'X', 'S', 'T', 'A', 'T'], ['T', 'M', 'O'], ['T', 'M', 'C', 'T', 'L'],
   ['D', 'L', 'L', 'O'], ['D', 'L', 'H', 'I']]

/-- The place of a name in a list of names, counted from `k`. -/
def indexFrom (k : Nat) (name : List Char) : List (List Char) → Option Nat
  | [] => none
  | n :: ns => if n = name then some k else indexFrom (k + 1) name ns

/-- A register operand: a number or a name (R66). -/
def regOperand (cs : List Char) : Option Nat :=
  match indexFrom 0 cs regNames with
  | some n => some n
  | none   => number cs

/-- An operand that fits a field with `bound` values, or an assembly error. -/
def fits (bound : Nat) : Option Nat → Except AsmError Nat
  | none => .error .badOperand
  | some n => if n < bound then .ok n else .error .operandTooLarge

/-- A byte of `LOADB` and `LOADFRAME`, in hexadecimal without `0x` (log entry 8). -/
def hexByte (cs : List Char) : Except AsmError Byte :=
  match cs with
  | [] => .error .badOperand
  | _ => do return BitVec.ofNat 8 (← fits 256 (digitsFrom 16 0 cs))

/-- The bytes of a `LOADB` or `LOADFRAME` line. -/
def hexBytes : List (List Char) → Except AsmError (List Byte)
  | [] => .ok []
  | w :: ws => do return (← hexByte w) :: (← hexBytes ws)

/-- The operand of each `REGWR` pseudo-command: a value of the field `A`. -/
def valueOperand (cs : List Char) : Except AsmError Word := do
  return BitVec.ofNat 32 (← fits (2 ^ 32) (number cs))

/-- A pseudo-command whose one operand is a value. -/
def asmValue (mk : Word → Pseudo) : List (List Char) → Except AsmError (List Instr)
  | [v] => do return (mk (← valueOperand v)).expand
  | _ => .error .wrongOperandCount

/-- A command or pseudo-command from its mnemonic and its comma-separated operands (R66, R67). `LOADB` with an
address, a comma and no bytes is no command; `LOADFRAME` with no operand is an assembly error (DESIGN CHOICE, log
entry 8: the spec's forms have at least one byte). -/
def asmCommand (mnemonic : List Char) (ops : List (List Char)) : Except AsmError (List Instr) :=
  match mnemonic with
  | ['N', 'O', 'P'] => asmPlain .nop
  | ['S', 'R', 'S', 'T'] => asmPlain .srst
  | ['C', 'S', 'C', 'L', 'R'] => asmPlain .csclr
  | ['E', 'N', 'C', 'C', 'L', 'O', 'S', 'E'] => asmPlain .encclose
  | ['D', 'E', 'C'] => asmPlain .dec
  | ['T', 'M', 'A', 'R', 'M'] => asmPlain .tmarm
  | ['T', 'M', 'S', 'T', 'O', 'P'] => asmPlain .tmstop
  | ['T', 'M', 'P', 'O', 'L', 'L'] => asmPlain .tmpoll
  | ['R', 'E', 'G', 'R', 'D'] => asmOne (2 ^ 16) regOperand .regrd
  | ['F', 'B', 'R', 'D'] => asmOne (2 ^ 16) number .fbrd
  | ['E', 'N', 'C', 'D', 'A', 'T', 'A'] => asmOne (2 ^ 16) number .encdata
  | ['E', 'N', 'C', 'A', 'C', 'K'] => asmOne (2 ^ 32) number fun n => .encack (BitVec.ofNat 32 n)
  | ['C', 'S', 'A', 'D', 'D', 'W'] => asmOne (2 ^ 16) number fun n => .csaddw (BitVec.ofNat 16 n)
  | ['C', 'S', 'A', 'D', 'D', 'B'] => asmOne (2 ^ 8) number fun n => .csaddb (BitVec.ofNat 8 n)
  | ['C', 'S', 'B', 'U', 'F'] => asmOne 2 number fun n => .csbuf (if n = 1 then .masked else .asIs)
  | ['R', 'E', 'G', 'W', 'R'] => asmTwo regOperand (2 ^ 32) fun n v => .regwr n (BitVec.ofNat 32 v)
  | ['F', 'B', 'W', 'R'] => asmTwo number (2 ^ 8) fun n v => .fbwr n (BitVec.ofNat 8 v)
  | ['S', 'E', 'T', 'L', 'E', 'N'] => asmValue .setlen ops
  | ['S', 'E', 'T', 'M', 'S', 'S'] => asmValue .setmss ops
  | ['S', 'E', 'T', 'S', 'E', 'Q'] => asmValue .setseq ops
  | ['S', 'E', 'T', 'T', 'M', 'O'] => asmValue .settmo ops
  | ['G', 'E', 'T', 'A', 'C', 'C'] => asmNone .getacc
  | ['G', 'E', 'T', 'E', 'R', 'R', 'S'] => asmNone .geterrs
  | ['L', 'O', 'A', 'D', 'B'] =>
    match ops with
    | [a, bs] => do
      let addr ← fits (2 ^ 16) (number a)
      let bytes ← hexBytes (words bs)
      if addr + bytes.length ≤ 2 ^ 16 then return (Pseudo.loadb addr bytes).expand else .error .operandTooLarge
    | _ => .error .wrongOperandCount
  | ['L', 'O', 'A', 'D', 'F', 'R', 'A', 'M', 'E'] =>
    match ops with
    | [bs] => do
      let bytes ← hexBytes (words bs)
      if bytes.length ≤ 2 ^ 16 then return (Pseudo.loadframe bytes).expand else .error .operandTooLarge
    | _ => .error .wrongOperandCount
  | _ => .error .unknownMnemonic
where
  asmPlain (i : Instr) : Except AsmError (List Instr) :=
    match ops with
    | [] => .ok [i]
    | _ => .error .wrongOperandCount
  asmNone (p : Pseudo) : Except AsmError (List Instr) :=
    match ops with
    | [] => .ok p.expand
    | _ => .error .wrongOperandCount
  asmOne (bound : Nat) (read : List Char → Option Nat) (mk : Nat → Instr) : Except AsmError (List Instr) :=
    match ops with
    | [x] => do return [mk (← fits bound (read x))]
    | _ => .error .wrongOperandCount
  asmTwo (read : List Char → Option Nat) (bound : Nat) (mk : Nat → Nat → Instr) :
      Except AsmError (List Instr) :=
    match ops with
    | [x, y] => do return [mk (← fits (2 ^ 16) (read x)) (← fits bound (number y))]
    | _ => .error .wrongOperandCount

/-- A text without the blanks at its two ends. -/
def trim (cs : List Char) : List Char :=
  ((cs.dropWhile isBlank).reverse.dropWhile isBlank).reverse

/-- One line: a mnemonic, then the operands separated by commas, then an optional comment (R66); a blank line
is no command. -/
def assembleLine (line : List Char) : Except AsmError (List Instr) :=
  let cs := trim (dropComment line)
  let mnemonic := cs.takeWhile fun c => !isBlank c
  let rest := trim (cs.dropWhile fun c => !isBlank c)
  if mnemonic = [] then .ok []
  else asmCommand mnemonic (if rest = [] then [] else (pieces (fun c => c = ',') rest).map trim)

/-- The lines of a program, in order. -/
def assemble : List (List Char) → Except AsmError (List Instr)
  | [] => .ok []
  | l :: ls => do return (← assembleLine l) ++ (← assemble ls)

end Sys2Proof.Machine
end

