-- ==== Sys2Proof/Safety.lean ====
section
/-! DEFINITION. Sys2Proof/Safety.lean: the terms claims are made in: the legal values of every register as one invariant
(spec/10_state.md R11), the promise of the clock (spec/42_timer.md R131), what a framed buffer holds (spec/41_codec.md R102), and
the exact integer a checksum folds (spec/40_checksum.md R89 (e)). -/

namespace Sys2Proof.Machine

/-- The column "Legal values" of R11, the ranges of R6, and what R21, R26, R27, R62 and R101 say always holds: the
premise that rules out states no run reaches. -/
structure State.Inv (s : State) : Prop where
  /-- R6. -/
  par     : s.par.Legal
  /-- R26: bit 0 of `ERRS` reads 0. -/
  errs    : s.errs.getLsbD 0 = false
  /-- R16. -/
  mss     : 1 ≤ s.mss.toNat ∧ s.mss.toNat ≤ s.par.mssMax
  /-- R15. -/
  flen    : s.flen.toNat ≤ s.par.fbSize
  /-- R14: the counter never holds the sentinel. -/
  seq     : s.seq.toNat ≤ s.par.seqMod - 1
  /-- R20. -/
  rxplen  : s.rxplen.toNat ≤ s.par.mssMax
  /-- R21, R101: `KIND` is the kind of `RXFLAG`. -/
  kind    : s.rxstat.extractLsb' 1 2 = (kindOf s.rxflag).code
  /-- R21: `LEN_OK` is 0 when `KIND` is INVALID. -/
  lenOk   : s.rxstat.getLsbD 3 = true → kindOf s.rxflag ≠ .invalid
  /-- R21: `VALID` is `CSUM_OK` and `LEN_OK`. -/
  valid   : s.rxstat.getLsbD 4 = (s.rxstat.getLsbD 0 && s.rxstat.getLsbD 3)
  /-- The written bytes are in canonical form. -/
  fb      : s.fb.wf
  /-- R43, R45: no byte at or above `FB_SIZE` is ever written. -/
  fbRange : ∀ c ∈ s.fb, c.1 < s.par.fbSize
  /-- R62: a response with an error status has data 0. -/
  rsp     : ∀ e d, s.rsp = some ⟨.err e, d⟩ → d = 0
  /-- R26, R172: the bit of an error that is being reported is set. -/
  rspErrs : ∀ e d, s.rsp = some ⟨.err e, d⟩ → s.errs.getLsbD e.code = true

/-- The environment's promise about the clock (R131): the sample `t` is `d` ticks after the sample `t0`, and
`d` is less than `2^63`. -/
def ClockPromise (t0 t : Clock) (d : Nat) : Prop := t = t0 + BitVec.ofNat 64 d ∧ d < 2 ^ 63

/-- `FB` of `t` holds a frame of `plen` payload bytes with this sequence number and flag and its checksum
embedded, `FLEN` and `ACC` agree with it, and every byte from `FB[8]` on is as in `s` (R102, R105 to R107). -/
structure FramedAs (s t : State) (seq : Word) (flag : Half) (plen : Nat) : Prop where
  byte0   : t.readByte 0 = seq.extractLsb' 24 8
  byte1   : t.readByte 1 = seq.extractLsb' 16 8
  byte2   : t.readByte 2 = seq.extractLsb' 8 8
  byte3   : t.readByte 3 = seq.extractLsb' 0 8
  byte4   : t.readByte 4 = t.acc.extractLsb' 8 8
  byte5   : t.readByte 5 = t.acc.extractLsb' 0 8
  byte6   : t.readByte 6 = flag.extractLsb' 8 8
  byte7   : t.readByte 7 = flag.extractLsb' 0 8
  payload : ∀ a, 8 ≤ a → t.readByte a = s.readByte a
  flen    : t.flen.toNat = 8 + plen
  acc     : t.acc = cksumMasked t.readByte (8 + plen)

/-- The exact integer sum of the words of R82 (R89 (e)). -/
def wordSum (bytes : Nat → Byte) (n : Nat) : Nat :=
  ((List.range (n / 2)).map fun k => (bytes (2 * k)).toNat * 256 + (bytes (2 * k + 1)).toNat).sum
    + if n % 2 = 1 then (bytes (n - 1)).toNat * 256 else 0

/-- The two states hold the same bytes below `n`. -/
def SameBytesBelow (n : Nat) (s t : State) : Prop := ∀ a, a < n → t.readByte a = s.readByte a

/-- The commands that frame a datagram in `FB`: they write `FB[0..7]` (R43 (b)). -/
def framesDatagram (i : Instr) : Bool :=
  i.mnemonic = .encdata || i.mnemonic = .encack || i.mnemonic = .encclose

end Sys2Proof.Machine
end

