-- ==== Sys2Proof/Certificates/Slice0/Obligations.lean ====
section
/-! DEFINITION. Sys2Proof/Certificates/Slice0/Obligations.lean: what is claimed of GBN-CCT, rule by rule. A frame is said by an
equation of states: `t = (s with …)` says that every field not named is as before, the bytes of the frame buffer
are spoken of through `State.readByte`, and `rsp` is the response. -/

open Sys2Proof Sys2Proof.Machine

/-! ### Encoding (spec/30_encoding.md) -/

/-- Every well-formed command is what its own word decodes to, with every operand (R64). -/
def Obligations.DecodeOfEncodeIsTheCommand : Prop :=
  ∀ i : Instr, i.wellFormed = true → decode (encode i) = .ok i

/-- A word that decodes is the word its command encodes to, and the command is well-formed (R64). -/
def Obligations.EncodeOfDecodeIsTheWord : Prop :=
  ∀ (w : CmdWord) (i : Instr), decode w = .ok i → i.wellFormed = true ∧ encode i = w

/-- R63: the seventeen rows of the opcode map, written out. No word matches two rows, a word that matches a row
decodes to a command of that row with the operand fields `B` and `A` of the word, and a word that matches none does
not decode. -/
def Obligations.WordsDecodeByTheOneRowTheyMatch : Prop :=
  ∃ rows : List (Mnemonic × CmdWord × CmdWord),
    rows =
      [(.nop, 0xFFFFFFFFFFFFFFFF, 0x0000000000000000), (.regrd, 0xFFFF0000FFFFFFFF, 0x0100000000000000),
       (.regwr, 0xFFFF000000000000, 0x0200000000000000), (.fbrd, 0xFFFF0000FFFFFFFF, 0x0300000000000000),
       (.fbwr, 0xFFFF0000FFFFFF00, 0x0400000000000000), (.srst, 0xFFFFFFFFFFFFFFFF, 0x0500000000000000),
       (.csclr, 0xFFFFFFFFFFFFFFFF, 0x1000000000000000), (.csaddw, 0xFFFFFFFFFFFF0000, 0x1100000000000000),
       (.csaddb, 0xFFFFFFFFFFFFFF00, 0x1200000000000000), (.csbuf, 0xFFFFFFFFFFFFFFFE, 0x1300000000000000),
       (.encdata, 0xFFFF0000FFFFFFFF, 0x2000000000000000), (.encack, 0xFFFFFFFF00000000, 0x2100000000000000),
       (.encclose, 0xFFFFFFFFFFFFFFFF, 0x2200000000000000), (.dec, 0xFFFFFFFFFFFFFFFF, 0x2300000000000000),
       (.tmarm, 0xFFFFFFFFFFFFFFFF, 0x3000000000000000), (.tmstop, 0xFFFFFFFFFFFFFFFF, 0x3100000000000000),
       (.tmpoll, 0xFFFFFFFFFFFFFFFF, 0x3200000000000000)] ∧
    ∀ w : CmdWord,
      (∀ r ∈ rows, ∀ r' ∈ rows, w &&& r.2.1 = r.2.2 → w &&& r'.2.1 = r'.2.2 → r = r') ∧
      (∀ r ∈ rows, w &&& r.2.1 = r.2.2 →
        ∃ i, decode w = .ok i ∧ i.mnemonic = r.1 ∧
          i.fieldB = w.extractLsb' 32 16 ∧ i.fieldA = w.extractLsb' 0 32) ∧
      ((∀ r ∈ rows, w &&& r.2.1 ≠ r.2.2) → ∃ e, decode w = .error e)

/-- R65: a word that does not decode is answered with `ERR_ILLEGAL` (status 1), data 0, and changes nothing but `ERRS` bit 1;
such are the words with an unassigned `OPC`, those with `RSV` not 0, and those with an assigned `OPC` and a 1 in a
must-be-zero bit of `B` or `A`. R65 answers all of them alike: the names `unknownOpcode` and `operandBitNotZero`, and
which is given where several hold, are the model's choice (log entry 15). -/
def Obligations.IllegalWordsRaiseErrIllegal : Prop :=
  ∀ (w : CmdWord) (s : State),
    (∀ e, decode w = .error e →
      issue w s = .next { s with errs := s.errs ||| 1#6 <<< 1, rsp := some ⟨.err .illegal, 0⟩ }) ∧
    (Status.err .illegal).code = 1 ∧
    (∀ o, o = (w.extractLsb' 56 8).toNat →
      (0x06 ≤ o ∧ o ≤ 0x0F) ∨ (0x14 ≤ o ∧ o ≤ 0x1F) ∨ (0x24 ≤ o ∧ o ≤ 0x2F) ∨ 0x33 ≤ o →
      decode w = .error .unknownOpcode) ∧
    (w.extractLsb' 48 8 ≠ 0 → ∃ e, decode w = .error e) ∧
    (∀ m : Mnemonic, w.extractLsb' 56 8 = m.pattern.extractLsb' 56 8 → w.extractLsb' 48 8 = 0 →
      w &&& m.mask &&& 0x0000FFFFFFFFFFFF ≠ 0 → decode w = .error .operandBitNotZero)

/-- Legal words of spec/95_test_vectors.md decode to the commands written beside them, and its illegal words do not
decode (a sanity statement). The spec says of the illegal words only that they are illegal (R65): the reason named
for each is the model's choice (log entry 15). -/
def Obligations.WordsOfTheSpecDecode : Prop :=
  decode 0x0000000000000000 = .ok .nop ∧
  decode 0x0200000B000001F4 = .ok (.regwr 11 500) ∧
  decode 0x0400000800000100 = .error .operandBitNotZero ∧
  decode 0x04000407000000AB = .ok (.fbwr 1031 0xAB) ∧
  decode 0x1100000000006162 = .ok (.csaddw 0x6162) ∧
  decode 0x1300000000000001 = .ok (.csbuf .masked) ∧
  decode 0x2000000300000000 = .ok (.encdata 3) ∧
  decode 0x2300000000000000 = .ok .dec ∧
  decode 0x3200000000000000 = .ok .tmpoll ∧
  decode 0x0001000000000000 = .error .reservedNotZero ∧
  decode 0x0601FFFFFFFFFFFF = .error .unknownOpcode

/-! ### The step (spec/00_scope.md R8, spec/10_state.md R30 and R31) -/

/-- When the port presents a command word and no response is outstanding, the step is the command's own rule at the
clock value sampled (R8, R31), or `ERR_ILLEGAL` (R65); and `withFetchWord` presents exactly the word it is
given. The list of inputs is the model's form of the ports (log entries 5 and 6). -/
def Obligations.StepRunsTheDecodedCommand : Prop :=
  (∀ (s : State) (p : PortIn) (ps : List PortIn) (w : CmdWord),
    s.inputs = p :: ps → p.rst = false → p.cmd = some w → s.rsp = none →
      (∀ i, decode w = .ok i → step s = exec i { s with inputs := ps, now := p.now }) ∧
      (∀ e, decode w = .error e → step s = raise .illegal { s with inputs := ps, now := p.now })) ∧
  ∀ (s : State) (nbits w : Nat) (i : Instr), decode (BitVec.ofNat 64 (w % 2 ^ nbits)) = .ok i →
    step (s.withFetchWord nbits w) = exec i { s with rsp := none }

/-- R31: while a response is presented no command is accepted; the step delivers the response if the host takes it,
and does nothing else. That a step is one port event is the model's choice (log entry 6). -/
def Obligations.PresentedResponseHoldsTheNextCommand : Prop :=
  ∀ (s : State) (p : PortIn) (ps : List PortIn) (r : Response),
    s.inputs = p :: ps → p.rst = false → s.rsp = some r →
      (s.outputs p).cmdReady = false ∧
      (p.rspReady = false → step s = .next { s with inputs := ps, now := p.now }) ∧
      (p.rspReady = true → step s =
        .next { s with inputs := ps, now := p.now, rsp := none, delivered := s.delivered ++ [r] })

/-- The output ports (R30, R200): `cmd_ready` is 1 exactly when the block is out of reset with no response
outstanding; the response word is `STATUS` in bits 39:32 and `DATA` in bits 31:0 (R62); in reset neither is
offered. -/
def Obligations.OutputPortsShowReadinessAndResponse : Prop :=
  ∀ (s : State) (p : PortIn),
    ((s.outputs p).cmdReady = true ↔ p.rst = false ∧ s.rsp = none) ∧
    (p.rst = true → (s.outputs p).rsp = none) ∧
    (p.rst = false → s.rsp = none → (s.outputs p).rsp = none) ∧
    (∀ st d, p.rst = false → s.rsp = some ⟨st, d⟩ →
      ∃ v, (s.outputs p).rsp = some v ∧ v.toNat = st.code.toNat * 2 ^ 32 + d.toNat)

/-- R200, R201, R203: a step that samples `rst` high gives every register its reset value, leaves every byte of `FB`
at the free value of a new reset (log entry 1), accepts no command, and discards the response of a command in
progress without delivering it. -/
def Obligations.ResetInputGivesTheResetState : Prop :=
  ∀ (s : State) (p : PortIn) (ps : List PortIn), s.inputs = p :: ps → p.rst = true →
    (s.outputs p).cmdReady = false ∧ (s.outputs p).rsp = none ∧
    ∃ t, step s = .next t ∧
      (∀ a, t.readByte a = Config.fbInit (s.fbEpoch + 1) a) ∧ (∀ n, t.expired n = false) ∧
      t = { s with
        errs := 0, mss := BitVec.ofNat 16 s.par.mssMax, flen := 0, seq := 0, acc := 0
        rxseq := 0, rxcsum := 0, rxflag := 0, rxplen := 0, rxstat := 0
        tmo := s.par.tmoReset, armed := false, deadline := 0
        fb := t.fb, fbEpoch := t.fbEpoch, rsp := none, inputs := ps, now := p.now }

/-- R201 and the reset column of R11: the values of the reset state, for all parameters, as the registers read; no
response is outstanding and the `expired` output is 0 (R32). -/
def Obligations.ResetStateHoldsTheResetValues : Prop :=
  ∀ (p : Params) (e : Nat), p.Legal →
    (∀ n, n < 15 → ∃ t d, exec (.regrd n) (State.resetWith p e) = .next t ∧ t.rsp = some ⟨.ok, d⟩ ∧
      d.toNat = if n = 0 then 0x47424E01 else if n = 2 then p.mssMax else if n = 11 then p.tmoReset.toNat else 0) ∧
    (∀ n, (State.resetWith p e).expired n = false) ∧ (State.resetWith p e).rsp = none

/-! ### Access and control (spec/43_access_control.md) -/

/-- R150. -/
def Obligations.NopChangesNothing : Prop :=
  ∀ s : State, exec .nop s = .next { s with rsp := some ⟨.ok, 0⟩ }

/-- R152: `REGRD n` answers register `n` of the map, zero-extended, and changes nothing; `n >= 15` is `ERR_ADDR`. -/
def Obligations.RegisterReadsAnswerTheMap : Prop :=
  ∀ s : State,
    (∀ (n : Nat) (v : Nat),
      (n, v) ∈ [(0, 0x47424E01), (1, s.errs.toNat), (2, s.mss.toNat), (3, s.flen.toNat), (4, s.seq.toNat),
        (5, s.acc.toNat), (6, s.rxseq.toNat), (7, s.rxcsum.toNat), (8, s.rxflag.toNat), (9, s.rxplen.toNat),
        (10, s.rxstat.toNat), (11, s.tmo.toNat), (12, if s.armed then 1 else 0),
        (13, s.deadline.toNat % 2 ^ 32), (14, s.deadline.toNat / 2 ^ 32)] →
      exec (.regrd n) s = .next { s with rsp := some ⟨.ok, BitVec.ofNat 32 v⟩ }) ∧
    ∀ n, 15 ≤ n →
      exec (.regrd n) s = .next { s with errs := s.errs ||| 1#6 <<< 2, rsp := some ⟨.err .addr, 0⟩ }

/-- R25: register 0 reads the constant and refuses writes, in every state, so whatever reset or `SRST` did. -/
def Obligations.IdReadsItsConstantAndRefusesWrites : Prop :=
  ∀ (s : State) (v : Word),
    exec (.regrd 0) s = .next { s with rsp := some ⟨.ok, 0x47424E01⟩ } ∧
    exec (.regwr 0 v) s = .next { s with errs := s.errs ||| 1#6 <<< 3, rsp := some ⟨.err .ro, 0⟩ }

/-- R153: the checks of `REGWR` in their order, and the one register written when they pass. -/
def Obligations.RegisterWritesCheckThenWriteOne : Prop :=
  ∀ (s : State) (n : Nat) (v : Word), s.par.Legal →
    (15 ≤ n → exec (.regwr n v) s =
      .next { s with errs := s.errs ||| 1#6 <<< 2, rsp := some ⟨.err .addr, 0⟩ }) ∧
    (n ∈ [0, 1, 5, 6, 7, 8, 9, 10, 12, 13, 14] → exec (.regwr n v) s =
      .next { s with errs := s.errs ||| 1#6 <<< 3, rsp := some ⟨.err .ro, 0⟩ }) ∧
    ((n = 2 ∧ ¬ (1 ≤ v.toNat ∧ v.toNat ≤ s.par.mssMax)) ∨ (n = 3 ∧ s.par.mssMax + 8 < v.toNat) ∨
        (n = 4 ∧ s.par.seqMod ≤ v.toNat) →
      exec (.regwr n v) s =
        .next { s with errs := s.errs ||| 1#6 <<< 4, rsp := some ⟨.err .value, 0⟩ }) ∧
    (n = 2 → 1 ≤ v.toNat → v.toNat ≤ s.par.mssMax →
      ∃ t, exec (.regwr n v) s = .next t ∧ t.mss.toNat = v.toNat ∧
        t = { s with mss := t.mss, rsp := some ⟨.ok, 0⟩ }) ∧
    (n = 3 → v.toNat ≤ s.par.mssMax + 8 →
      ∃ t, exec (.regwr n v) s = .next t ∧ t.flen.toNat = v.toNat ∧
        t = { s with flen := t.flen, rsp := some ⟨.ok, 0⟩ }) ∧
    (n = 4 → v.toNat < s.par.seqMod →
      exec (.regwr n v) s = .next { s with seq := v, rsp := some ⟨.ok, 0⟩ }) ∧
    (n = 11 → exec (.regwr n v) s = .next { s with tmo := v, rsp := some ⟨.ok, 0⟩ })

/-- R154: `FBRD a` answers the byte, zero-extended, and changes nothing; at or above `FB_SIZE` it is `ERR_ADDR`. -/
def Obligations.BufferReadAnswersTheByte : Prop :=
  ∀ (s : State) (a : Nat),
    (a < s.par.mssMax + 8 →
      exec (.fbrd a) s = .next { s with rsp := some ⟨.ok, BitVec.ofNat 32 (s.readByte a).toNat⟩ }) ∧
    (s.par.mssMax + 8 ≤ a →
      exec (.fbrd a) s = .next { s with errs := s.errs ||| 1#6 <<< 2, rsp := some ⟨.err .addr, 0⟩ })

/-- R155: `FBWR a, b` writes that byte and nothing else; at or above `FB_SIZE` it is `ERR_ADDR`. -/
def Obligations.BufferWriteWritesOneByte : Prop :=
  ∀ (s : State) (a : Nat) (b : Byte),
    (a < s.par.mssMax + 8 →
      ∃ t, exec (.fbwr a b) s = .next t ∧ t.readByte a = b ∧ (∀ x, x ≠ a → t.readByte x = s.readByte x) ∧
        t = { s with fb := t.fb, rsp := some ⟨.ok, 0⟩ }) ∧
    (s.par.mssMax + 8 ≤ a →
      exec (.fbwr a b) s = .next { s with errs := s.errs ||| 1#6 <<< 2, rsp := some ⟨.err .addr, 0⟩ })

/-- R156: `SRST` gives every register its reset value and leaves `FB` as it is. -/
def Obligations.SoftResetResetsTheRegisters : Prop :=
  ∀ s : State, exec .srst s = .next { s with
    errs := 0, mss := BitVec.ofNat 16 s.par.mssMax, flen := 0, seq := 0, acc := 0
    rxseq := 0, rxcsum := 0, rxflag := 0, rxplen := 0, rxstat := 0
    tmo := s.par.tmoReset, armed := false, deadline := 0, rsp := some ⟨.ok, 0⟩ }

/-- A byte of `FB` reads the same through any list of command words, legal or not, none of which is an `FBWR` to it
or (for the header bytes) frames a datagram (spec/20_memory.md, sections 4 and 7). -/
def Obligations.BytesHoldUntilACommandWritesThem : Prop :=
  ∀ (cs : List (CmdWord × Clock)) (s : State) (a : Nat),
    (∀ c ∈ cs, ∀ i, decode c.1 = .ok i → (∀ b, i ≠ .fbwr a b) ∧ (framesDatagram i = true → 8 ≤ a)) →
    ∃ t, runCommands cs s = .next t ∧ t.readByte a = s.readByte a

/-! ### The checksum (spec/40_checksum.md) -/

/-- R81. -/
def Obligations.OcAddSubtractsFFFFWhenTheSumExceedsIt : Prop :=
  ∀ a b : Half, (ocAdd16 a b).toNat =
    if a.toNat + b.toNat > 0xFFFF then a.toNat + b.toNat - 0xFFFF else a.toNat + b.toNat

/-- R89 (b), (c), (d): identity, the two zeros, commutativity, associativity. -/
def Obligations.OcAddIsACommutativeMonoidWithTwoZeros : Prop :=
  (∀ a, ocAdd16 a 0 = a) ∧
  (∀ a b, ocAdd16 a b = 0 ↔ a = 0 ∧ b = 0) ∧
  (∀ a, a ≠ 0 → ocAdd16 a 0xFFFF = a) ∧ ocAdd16 0 0xFFFF = 0xFFFF ∧
  (∀ a b, ocAdd16 a b = ocAdd16 b a) ∧
  ∀ a b c, ocAdd16 (ocAdd16 a b) c = ocAdd16 a (ocAdd16 b c)

/-- R82: the checksum adds the big-endian words of the first `n` bytes in increasing address order, and a trailing
byte as the high byte of a last word, starting from 0, with no inversion (R88). -/
def Obligations.ChecksumAddsTheWordsInOrder : Prop :=
  ∀ (bytes : Nat → Byte) (n : Nat), cksum bytes n =
    (((List.range (n / 2)).map fun k =>
        BitVec.ofNat 16 ((bytes (2 * k)).toNat * 256 + (bytes (2 * k + 1)).toNat)) ++
      if n % 2 = 1 then [BitVec.ofNat 16 ((bytes (n - 1)).toNat * 256)] else []).foldl ocAdd16 0

/-- R89 (e): the closed form over the exact integer sum of the words. -/
def Obligations.ChecksumIsTheSumModuloFFFF : Prop :=
  ∀ (bytes : Nat → Byte) (n : Nat), (cksum bytes n).toNat =
    if wordSum bytes n = 0 then 0 else (wordSum bytes n - 1) % 0xFFFF + 1

/-- R89 (f): trailing zero bytes do not change the checksum. -/
def Obligations.TrailingZeroBytesDoNotCount : Prop :=
  ∀ (bytes : Nat → Byte) (n k : Nat), (∀ a, n ≤ a → a < n + k → bytes a = 0) →
    cksum bytes (n + k) = cksum bytes n

/-- R84, R85, R86: the accumulator and the response of the three streaming commands; nothing else changes. -/
def Obligations.StreamingCommandsUpdateAcc : Prop :=
  ∀ (s : State) (w : Half) (b : Byte),
    exec .csclr s = .next { s with acc := 0, rsp := some ⟨.ok, 0⟩ } ∧
    (∃ t, exec (.csaddw w) s = .next t ∧
      t.acc.toNat = (if s.acc.toNat + w.toNat > 0xFFFF then s.acc.toNat + w.toNat - 0xFFFF
        else s.acc.toNat + w.toNat) ∧
      t = { s with acc := t.acc, rsp := some ⟨.ok, BitVec.ofNat 32 t.acc.toNat⟩ }) ∧
    (∃ t, exec (.csaddb b) s = .next t ∧
      t.acc.toNat = (if s.acc.toNat + b.toNat * 256 > 0xFFFF then s.acc.toNat + b.toNat * 256 - 0xFFFF
        else s.acc.toNat + b.toNat * 256) ∧
      t = { s with acc := t.acc, rsp := some ⟨.ok, BitVec.ofNat 32 t.acc.toNat⟩ })

/-- R87 with R83: `CSBUF` leaves the checksum of the frame `FB[0 .. FLEN-1]` in `ACC` and in the response, bytes 4 and 5
taken as zero in mode 1; nothing else changes. -/
def Obligations.CsbufSumsTheFrame : Prop :=
  ∀ (s : State) (mode : ChecksumMode), ∃ t, exec (.csbuf mode) s = .next t ∧
    t.acc = cksum (fun a => if mode = .masked ∧ (a = 4 ∨ a = 5) then 0 else s.readByte a) s.flen.toNat ∧
    t = { s with acc := t.acc, rsp := some ⟨.ok, BitVec.ofNat 32 t.acc.toNat⟩ }

/-- What lies at or above `FLEN` never matters to `CSBUF` and `DEC` (R43, R87): with any other bytes there, both answer
alike and leave the same registers. -/
def Obligations.FrameReadersSeeOnlyTheFrame : Prop :=
  ∀ (s : State) (m : Memory) (e : Nat) (i : Instr),
    (i = .dec ∨ ∃ mode, i = .csbuf mode) →
    SameBytesBelow s.flen.toNat s { s with fb := m, fbEpoch := e } →
    ∃ t, exec i s = .next t ∧ t.fb = s.fb ∧ t.fbEpoch = s.fbEpoch ∧
      exec i { s with fb := m, fbEpoch := e } = .next { t with fb := m, fbEpoch := e }

/-- R89 (g): after `CSCLR`, `CSADDW` of each whole word in any order, and `CSADDB` of a trailing byte, `ACC` is the
checksum of the bytes. -/
def Obligations.StreamingEqualsBufferChecksum : Prop :=
  ∀ (bytes : Nat → Byte) (n : Nat) (ws : List Half) (s : State),
    ws.Perm ((List.range (n / 2)).map fun k => be16 (bytes (2 * k)) (bytes (2 * k + 1))) →
    ∃ t, runCommands
        (((Instr.csclr :: ws.map Instr.csaddw) ++
          (if n % 2 = 1 then [Instr.csaddb (bytes (n - 1))] else [])).map fun i => (encode i, s.now)) s = .next t ∧
      t.acc = cksum bytes n

/-- R90: embedding the checksum of a frame of at least 6 bytes does not change it; so `DEC` right after an encode command
that succeeded reports `CSUM_OK`. -/
def Obligations.EmbeddedChecksumVerifies : Prop :=
  (∀ (s : State) (c : Half), 6 ≤ s.flen.toNat → c = cksumMasked s.readByte s.flen.toNat →
    cksumMasked ((s.writeByte 4 (c.extractLsb' 8 8)).writeByte 5 (c.extractLsb' 0 8)).readByte s.flen.toNat = c) ∧
  ∀ (s t : State) (i : Instr) (d : Word), framesDatagram i = true → exec i s = .next t → t.rsp = some ⟨.ok, d⟩ →
    ∃ u, exec .dec t = .next u ∧ u.rxstat.getLsbD 0 = true

/-! ### Framing and decoding (spec/41_codec.md) -/

/-- R103: the counter's successor; the sentinel `SEQ_MOD` is never produced. -/
def Obligations.SequenceSuccessorWrapsBelowTheSentinel : Prop :=
  ∀ (p : Params) (q : Word), p.Legal → q.toNat ≤ p.seqMod - 1 →
    (seqNext p q).toNat = (q.toNat + 1) % p.seqMod ∧ (seqNext p q).toNat < p.seqMod

/-- R105: `ENCDATA plen` builds the DATA frame around the payload, takes the next sequence number, and changes nothing
else; with `plen > MSS` it is `ERR_LEN` and writes nothing. -/
def Obligations.EncdataFramesAndAdvancesSeq : Prop :=
  ∀ (s : State) (plen : Nat), s.par.Legal →
    (plen ≤ s.mss.toNat →
      ∃ t, exec (.encdata plen) s = .next t ∧ FramedAs s t s.seq 0x5555 plen ∧
        t.seq.toNat = (if s.seq.toNat + 1 ≥ s.par.seqMod then 0 else s.seq.toNat + 1) ∧
        t = { s with fb := t.fb, flen := t.flen, acc := t.acc, seq := t.seq, rsp := some ⟨.ok, s.seq⟩ }) ∧
    (s.mss.toNat < plen →
      exec (.encdata plen) s = .next { s with errs := s.errs ||| 1#6 <<< 5, rsp := some ⟨.err .len, 0⟩ })

/-- R106: `ENCACK seq` builds the 8-byte ACK frame for its operand and answers the checksum; nothing else changes. -/
def Obligations.EncackFramesItsOperand : Prop :=
  ∀ (s : State) (q : Word), ∃ t, exec (.encack q) s = .next t ∧ FramedAs s t q 0xAAAA 0 ∧
    t = { s with fb := t.fb, flen := t.flen, acc := t.acc, rsp := some ⟨.ok, BitVec.ofNat 32 t.acc.toNat⟩ }

/-- R107: `ENCCLOSE` builds the 8-byte CLOSE frame carrying `SEQ` and answers `SEQ`, which it leaves; nothing else
changes. -/
def Obligations.EnccloseFramesSeq : Prop :=
  ∀ s : State, ∃ t, exec .encclose s = .next t ∧ FramedAs s t s.seq 0xFFFF 0 ∧
    t = { s with fb := t.fb, flen := t.flen, acc := t.acc, rsp := some ⟨.ok, s.seq⟩ }

/-- R108 with R101: what `DEC` writes and answers, bit by bit, and that it changes nothing else; with `FLEN < 8` it is
`ERR_LEN`. The premise on `FLEN` holds in every state a run reaches (R15, `StepKeepsTheInvariant`). -/
def Obligations.DecParsesAndJudgesTheFrame : Prop :=
  ∀ s : State, s.par.Legal → s.flen.toNat ≤ s.par.mssMax + 8 →
    (8 ≤ s.flen.toNat →
      ∃ t, exec .dec s = .next t ∧
        t.rxseq.toNat = (((s.readByte 0).toNat * 256 + (s.readByte 1).toNat) * 256 + (s.readByte 2).toNat) * 256
          + (s.readByte 3).toNat ∧
        t.rxcsum.toNat = (s.readByte 4).toNat * 256 + (s.readByte 5).toNat ∧
        t.rxflag.toNat = (s.readByte 6).toNat * 256 + (s.readByte 7).toNat ∧
        t.rxplen.toNat + 8 = s.flen.toNat ∧
        t.acc = cksum (fun a => if a = 4 ∨ a = 5 then 0 else s.readByte a) s.flen.toNat ∧
        (t.rxstat.getLsbD 0 = true ↔ t.acc = t.rxcsum) ∧
        (t.rxstat.extractLsb' 1 2).toNat =
          (if t.rxflag = 0x5555 then 1 else if t.rxflag = 0xAAAA then 2 else if t.rxflag = 0xFFFF then 3 else 0) ∧
        (t.rxstat.getLsbD 3 = true ↔
          (t.rxflag = 0x5555 ∧ t.rxplen.toNat ≤ s.mss.toNat) ∨
          ((t.rxflag = 0xAAAA ∨ t.rxflag = 0xFFFF) ∧ t.rxplen = 0)) ∧
        (t.rxstat.getLsbD 4 = true ↔ t.rxstat.getLsbD 0 = true ∧ t.rxstat.getLsbD 3 = true) ∧
        t = { s with
          rxseq := t.rxseq, rxcsum := t.rxcsum, rxflag := t.rxflag, rxplen := t.rxplen, rxstat := t.rxstat
          acc := t.acc, rsp := some ⟨.ok, BitVec.ofNat 32 t.rxstat.toNat⟩ }) ∧
    (s.flen.toNat < 8 →
      exec .dec s = .next { s with errs := s.errs ||| 1#6 <<< 5, rsp := some ⟨.err .len, 0⟩ })

/-- R109: a frame that one block has encoded, its bytes and length carried unchanged into a block `b` (the same or
another), decodes there as valid, with the sequence number, flag, payload length and checksum it was encoded
with. -/
def Obligations.EncodedFramesDecodeValid : Prop :=
  ∀ (s t b : State) (i : Instr) (d : Word),
    exec i s = .next t → t.rsp = some ⟨.ok, d⟩ →
    b.flen = t.flen → SameBytesBelow t.flen.toNat t b →
    (∀ plen, i = .encdata plen → plen ≤ b.mss.toNat →
      ∃ u, exec .dec b = .next u ∧ u.rsp = some ⟨.ok, 0x1B⟩ ∧ u.rxseq = d ∧ u.rxflag = 0x5555 ∧
        u.rxplen.toNat = plen ∧ u.rxstat = 0x1B ∧ u.rxcsum = u.acc ∧ u.acc = t.acc) ∧
    (∀ q, i = .encack q →
      ∃ u, exec .dec b = .next u ∧ u.rsp = some ⟨.ok, 0x1D⟩ ∧ u.rxseq = q ∧ u.rxflag = 0xAAAA ∧
        u.rxplen = 0 ∧ u.rxstat = 0x1D ∧ u.rxcsum = u.acc ∧ u.acc = t.acc) ∧
    (i = .encclose →
      ∃ u, exec .dec b = .next u ∧ u.rsp = some ⟨.ok, 0x1F⟩ ∧ u.rxseq = s.seq ∧ u.rxflag = 0xFFFF ∧
        u.rxplen = 0 ∧ u.rxstat = 0x1F ∧ u.rxcsum = u.acc ∧ u.acc = t.acc)

/-! ### The timer (spec/42_timer.md) -/

/-- R132, R134: `TMARM` sets the deadline `TMO` ticks after the sampled clock, modulo `2^64`, arms the timer and answers
the deadline's low half; nothing else changes. -/
def Obligations.TmarmSetsTheDeadline : Prop :=
  ∀ s : State, exec .tmarm s = .next { s with
    deadline := BitVec.ofNat 64 ((s.now.toNat + s.tmo.toNat) % 2 ^ 64), armed := true
    rsp := some ⟨.ok, BitVec.ofNat 32 ((s.now.toNat + s.tmo.toNat) % 2 ^ 32)⟩ }

/-- R135: `TMSTOP` clears `ARMED` and keeps the deadline. -/
def Obligations.TmstopDisarms : Prop :=
  ∀ s : State, exec .tmstop s = .next { s with armed := false, rsp := some ⟨.ok, 0⟩ }

/-- R136: `TMPOLL` answers 0 when idle, 2 when armed and the deadline is not reached, 3 when it is, by the modular
comparison of R133, and changes nothing. -/
def Obligations.TmpollAnswersTheComparator : Prop :=
  ∀ s : State, exec .tmpoll s = .next { s with
    rsp := some ⟨.ok, if s.armed = true then
      (if (s.now.toNat + (2 ^ 64 - s.deadline.toNat)) % 2 ^ 64 < 2 ^ 63 then 3 else 2) else 0⟩ }

/-- R133, R53: the `expired` output is 1 exactly when the timer is armed and the clock has reached the deadline in
modular arithmetic, and it is the value a `TMPOLL` that samples the same clock reports. -/
def Obligations.ExpiredOutputIsWhatTmpollReports : Prop :=
  ∀ (s : State) (p : PortIn),
    ((s.outputs p).expired = true ↔
      s.armed = true ∧ (p.now.toNat + (2 ^ 64 - s.deadline.toNat)) % 2 ^ 64 < 2 ^ 63) ∧
    ∃ t d, exec .tmpoll { s with now := p.now } = .next t ∧ t.rsp = some ⟨.ok, d⟩ ∧
      d.getLsbD 0 = (s.outputs p).expired

/-- R138: after a `TMARM` at `t0`, whatever other commands run (a `REGWR TMO` among them) but `TMARM`, `TMSTOP` and `SRST`, a
`TMPOLL` at `t0 + d` under the clock's promise (R131) reports expiry exactly when `d >= TMO`, `TMO` being its value
at the arm; and an idle timer reports 0. -/
def Obligations.PollAfterArmExpiresAtTheTimeout : Prop :=
  (∀ (s : State) (t0 : Clock) (cs : List (CmdWord × Clock)),
    (∀ c ∈ cs, decode c.1 ≠ .ok .tmarm ∧ decode c.1 ≠ .ok .tmstop ∧ decode c.1 ≠ .ok .srst) →
    ∃ u, runCommands ((encode .tmarm, t0) :: cs) s = .next u ∧
      ∀ (t : Clock) (d : Nat), ClockPromise t0 t d →
        ∃ v, issue (encode .tmpoll) { u with now := t } = .next v ∧
          v.rsp = some ⟨.ok, if s.tmo.toNat ≤ d then 3 else 2⟩) ∧
  ∀ s : State, s.armed = false →
    ∃ v, issue (encode .tmpoll) s = .next v ∧ v.rsp = some ⟨.ok, 0⟩

/-! ### Errors (spec/60_exceptions.md) -/

/-- R170: which command raises which error, and exactly when; that the error sets its bit of `ERRS`; and the codes. -/
def Obligations.ErrorsHaveExactlyTheirCauses : Prop :=
  (∀ (i : Instr) (s : State) (e : ErrCode), s.par.Legal →
    ((∃ t d, exec i s = .next t ∧ t.rsp = some ⟨.err e, d⟩ ∧ t.errs.getLsbD e.code = true) ↔
      (e = .addr ∧ ((∃ n, i = .regrd n ∧ 15 ≤ n) ∨ (∃ n v, i = .regwr n v ∧ 15 ≤ n) ∨
        (∃ a, i = .fbrd a ∧ s.par.mssMax + 8 ≤ a) ∨ ∃ a b, i = .fbwr a b ∧ s.par.mssMax + 8 ≤ a)) ∨
      (e = .ro ∧ ∃ n v, i = .regwr n v ∧ n ∈ [0, 1, 5, 6, 7, 8, 9, 10, 12, 13, 14]) ∨
      (e = .value ∧ ∃ n v, i = .regwr n v ∧
        ((n = 2 ∧ ¬ (1 ≤ v.toNat ∧ v.toNat ≤ s.par.mssMax)) ∨ (n = 3 ∧ s.par.mssMax + 8 < v.toNat) ∨
          (n = 4 ∧ s.par.seqMod - 1 < v.toNat))) ∨
      (e = .len ∧ ((∃ plen, i = .encdata plen ∧ s.mss.toNat < plen) ∨ (i = .dec ∧ s.flen.toNat < 8))))) ∧
  (∀ (w : CmdWord) (s : State),
    (∃ t d, issue w s = .next t ∧ t.rsp = some ⟨.err .illegal, d⟩ ∧ t.errs.getLsbD 1 = true) ↔ ∃ e, decode w = .error e) ∧
  Status.ok.code = 0 ∧ (Status.err .illegal).code = 1 ∧ (Status.err .addr).code = 2 ∧
  (Status.err .ro).code = 3 ∧ (Status.err .value).code = 4 ∧ (Status.err .len).code = 5

/-- R172: a refused command answers data 0 and changes nothing but its own bit of `ERRS`; and the block then still
executes commands (`NOP` succeeds in every state). -/
def Obligations.RefusedCommandsChangeOnlyTheirErrorBit : Prop :=
  (∀ (w : CmdWord) (s t : State) (e : ErrCode) (d : Word),
    issue w s = .next t → t.rsp = some ⟨.err e, d⟩ →
      d = 0 ∧ t = { s with errs := s.errs ||| 1#6 <<< e.code, rsp := some ⟨.err e, 0⟩ }) ∧
  ∀ s : State, ∃ t, issue 0 s = .next t ∧ t.rsp = some ⟨.ok, 0⟩

/-- R174: a command issued after a refused command leaves the state it would leave after a `NOP` in its place, but for
the refused command's bit of `ERRS`, and answers the same, but for a read of `ERRS` itself. -/
def Obligations.CommandAfterRefusalRunsAsAfterNop : Prop :=
  ∀ (w w' : CmdWord) (s t u t' u' : State) (e : ErrCode) (d : Word),
    issue w s = .next t → t.rsp = some ⟨.err e, d⟩ → issue 0 s = .next u →
    issue w' t = .next t' → issue w' u = .next u' →
      t' = { u' with errs := t'.errs, rsp := t'.rsp } ∧
      (decode w' ≠ .ok .srst → t'.errs = u'.errs ||| 1#6 <<< e.code) ∧
      (decode w' = .ok .srst → t'.errs = 0) ∧
      (decode w' ≠ .ok (.regrd 1) → t'.rsp = u'.rsp)

/-- R175: every command word, legal or not, in every state, completes with one response, and no step stops. -/
def Obligations.EveryCommandAndEveryStepCompletes : Prop :=
  (∀ (w : CmdWord) (s : State), ∃ t r, issue w s = .next t ∧ t.rsp = some r) ∧
  (∀ (i : Instr) (s : State), ∃ t r, exec i s = .next t ∧ t.rsp = some r) ∧
  ∀ s : State, ∃ t, step s = .next t

/-- R26: a set bit of `ERRS` stays set through every command but `SRST`; bit 0 is never set; and after commands without
`SRST` that leave `ERRS = 0`, each of them was answered `OK`, one response per command, in order. -/
def Obligations.ErrsIsAStickyRecordOfRefusals : Prop :=
  (∀ (w : CmdWord) (s t : State) (k : Nat), issue w s = .next t → decode w ≠ .ok .srst →
    s.errs.getLsbD k = true → t.errs.getLsbD k = true) ∧
  (∀ (w : CmdWord) (s t : State), issue w s = .next t → s.errs.getLsbD 0 = false → t.errs.getLsbD 0 = false) ∧
  (∀ s t : State, exec .srst s = .next t → t.errs = 0) ∧
  ∀ (cs : List (CmdWord × Clock)) (s : State), s.rsp = none →
    (∀ c ∈ cs, decode c.1 ≠ .ok .srst) →
    ∃ t rs, runCommands cs s = .next t ∧ t.rsp = none ∧ t.delivered = s.delivered ++ rs ∧
      rs.length = cs.length ∧ (t.errs = 0 → ∀ r ∈ rs, r.status = .ok)

/-! ### The whole machine -/

/-- The column "written by" of R11, and what no command changes: the parameters, the reset count and the input ports'
side. -/
def Obligations.RegistersChangeOnlyByTheirCommands : Prop :=
  ∀ (i : Instr) (s t : State), exec i s = .next t →
    (t.errs ≠ s.errs → i = .srst ∨ ∃ e d, t.rsp = some ⟨.err e, d⟩) ∧
    (t.mss ≠ s.mss → i = .srst ∨ ∃ v, i = .regwr 2 v) ∧
    (t.flen ≠ s.flen → i = .srst ∨ (∃ v, i = .regwr 3 v) ∨ framesDatagram i = true) ∧
    (t.seq ≠ s.seq → i = .srst ∨ (∃ v, i = .regwr 4 v) ∨ ∃ n, i = .encdata n) ∧
    (t.acc ≠ s.acc → i = .srst ∨ i = .csclr ∨ (∃ w, i = .csaddw w) ∨ (∃ b, i = .csaddb b) ∨
      (∃ m, i = .csbuf m) ∨ framesDatagram i = true ∨ i = .dec) ∧
    ((t.rxseq ≠ s.rxseq ∨ t.rxcsum ≠ s.rxcsum ∨ t.rxflag ≠ s.rxflag ∨ t.rxplen ≠ s.rxplen ∨
      t.rxstat ≠ s.rxstat) → i = .srst ∨ i = .dec) ∧
    (t.tmo ≠ s.tmo → i = .srst ∨ ∃ v, i = .regwr 11 v) ∧
    (t.armed ≠ s.armed → i = .srst ∨ i = .tmarm ∨ i = .tmstop) ∧
    (t.deadline ≠ s.deadline → i = .srst ∨ i = .tmarm) ∧
    (t.fb ≠ s.fb → (∃ a b, i = .fbwr a b) ∨ framesDatagram i = true) ∧
    t.par = s.par ∧ t.fbEpoch = s.fbEpoch ∧ t.now = s.now ∧ t.inputs = s.inputs ∧ t.delivered = s.delivered

/-- No command reads or writes a byte at or above `FB_SIZE` (R43): from states that meet the invariant and agree on
the bytes below `FB_SIZE`, a command word answers alike, leaves the same registers and the same bytes below `FB_SIZE`,
and changes no byte above. -/
def Obligations.NoCommandTouchesBytesBeyondTheBuffer : Prop :=
  ∀ (w : CmdWord) (s : State) (m : Memory) (e : Nat), s.Inv →
    SameBytesBelow (s.par.mssMax + 8) s { s with fb := m, fbEpoch := e } →
    ∃ t t', issue w s = .next t ∧ issue w { s with fb := m, fbEpoch := e } = .next t' ∧
      t' = { t with fb := t'.fb, fbEpoch := e } ∧ SameBytesBelow (s.par.mssMax + 8) t t' ∧
      ∀ a, s.par.mssMax + 8 ≤ a → t.readByte a = s.readByte a

/-- The invariant holds right after reset, with every legal choice of the parameters. -/
def Obligations.ResetMeetsTheInvariant : Prop :=
  (∀ (p : Params) (e : Nat), p.Legal → (State.resetWith p e).Inv) ∧ State.reset.Inv

/-- Every step keeps the invariant: legal parameters and register values (R11, R14, R15, R16, R20), the verdict bits'
consistency (R21), `ERRS` bit 0 clear and the bit of a reported error set (R26), error responses with data 0 (R62), and
the written bytes in canonical form and below `FB_SIZE` (R43). -/
def Obligations.StepKeepsTheInvariant : Prop :=
  ∀ s t : State, s.Inv → step s = .next t → t.Inv

/-- R31, R68: a host that presents a list of command words at the port, taking each response, gets what the commands
give one atomic command-and-response after the other, strictly in list order; the ports' later inputs are not
touched. That a step is one port event, and the response is taken at the step after the command, is the model's
choice (log entry 6). -/
def Obligations.PortsRunACommandListInOrder : Prop :=
  ∀ (cs : List (CmdWord × Clock)) (ps : List PortIn) (s : State),
    s.rsp = none → s.inputs = hostInputs cs ++ ps →
    (Host.Core.run Sys2Proof.core (2 * cs.length) s : Host.Outcome State Fault Refusal) =
      runCommands cs { s with inputs := ps }

/-- R67: the pseudo-command `LOADFRAME b0 b1 ... bk`, expanded and run, puts the bytes at `FB[0 ..]` and their count in
`FLEN`, and changes nothing else (the responses delivered apart). The spec's form has at least one byte; the empty
list is the model's choice (log entry 8). -/
def Obligations.LoadframeLoadsTheFrame : Prop :=
  ∀ (s : State) (bs : List Byte), s.par.Legal → bs.length ≤ s.par.mssMax + 8 →
    ∃ t, runCommands ((Pseudo.loadframe bs).expand.map fun i => (encode i, s.now)) s = .next t ∧
      t.flen.toNat = bs.length ∧ (∀ k (h : k < bs.length), t.readByte k = bs[k]) ∧
      (∀ a, bs.length ≤ a → t.readByte a = s.readByte a) ∧
      t = { s with fb := t.fb, flen := t.flen, rsp := none, delivered := t.delivered }
end

