-- ==== Sys2Proof/Laws/PerInstr.lean ====
section
/-! SUPPORT. Sys2Proof/Laws/PerInstr.lean: one lemma per command for each family named in LAWS.json. Family
`EncodeSelectsRow`: the word the encoder gives a command selects the command's own row of the opcode map
(spec/30_encoding.md R63). -/

namespace Sys2Proof.Laws

/-- The four fields of format C (R60) joined into a word. -/
def fields (o r : BitVec 8) (b : BitVec 16) (a : BitVec 32) : CmdWord := o ++ r ++ b ++ a

/-- Masking a word masks its fields. -/
theorem fields_and (o r o' r' : BitVec 8) (b b' : BitVec 16) (a a' : BitVec 32) :
    fields o r b a &&& fields o' r' b' a' = fields (o &&& o') (r &&& r') (b &&& b') (a &&& a') := by
  have h1 : (o ++ r ++ b ++ a) &&& (o' ++ r' ++ b' ++ a') =
      ((o ++ r ++ b) &&& (o' ++ r' ++ b')) ++ (a &&& a') := BitVec.and_append
  have h2 : (o ++ r ++ b) &&& (o' ++ r' ++ b') = ((o ++ r) &&& (o' ++ r')) ++ (b &&& b') := BitVec.and_append
  have h3 : (o ++ r) &&& (o' ++ r') = (o &&& o') ++ (r &&& r') := BitVec.and_append
  show (o ++ r ++ b ++ a) &&& (o' ++ r' ++ b' ++ a') = _
  rw [h1, h2, h3]
  rfl

/-- A word given by its fields selects a row given by its fields when each masked field matches. -/
theorem selects_fields {m : Mnemonic} {o r mo mr po pr : BitVec 8} {b mb pb : BitVec 16} {a ma pa : BitVec 32}
    (hmask : m.mask = fields mo mr mb ma) (hpat : m.pattern = fields po pr pb pa)
    (ho : o &&& mo = po) (hr : r &&& mr = pr) (hb : b &&& mb = pb) (ha : a &&& ma = pa) :
    m.selects (fields o r b a) = true := by
  simp only [Mnemonic.selects, beq_iff_eq]
  rw [hmask, hpat, fields_and, ho, hr, hb, ha]

namespace EncodeSelectsRow

/-- The encoded word selects the row of the command's mnemonic. -/
def Statement (i : Instr) : Prop := i.mnemonic.selects (encode i) = true

theorem nop : Statement .nop := by unfold Statement; decide

theorem regrd (reg : Nat) : Statement (.regrd reg) :=
  selects_fields (mo := 0xFF) (mr := 0xFF) (mb := 0) (ma := 0xFFFFFFFF) (po := 1) (pr := 0) (pb := 0) (pa := 0)
    rfl rfl (by simp [Instr.opcode]) rfl (by simp) (by simp [Instr.fieldA])

theorem regwr (reg : Nat) (value : Word) : Statement (.regwr reg value) :=
  selects_fields (mo := 0xFF) (mr := 0xFF) (mb := 0) (ma := 0) (po := 2) (pr := 0) (pb := 0) (pa := 0)
    rfl rfl (by simp [Instr.opcode]) rfl (by simp) (by simp)

theorem fbrd (addr : Nat) : Statement (.fbrd addr) :=
  selects_fields (mo := 0xFF) (mr := 0xFF) (mb := 0) (ma := 0xFFFFFFFF) (po := 3) (pr := 0) (pb := 0) (pa := 0)
    rfl rfl (by simp [Instr.opcode]) rfl (by simp) (by simp [Instr.fieldA])

/-- A zero-extended operand has no bit above its own width. -/
theorem setWidth_and_high {n : Nat} (x : BitVec n) (m : BitVec 32)
    (h : ∀ k, k < 32 → k < n → m.getLsbD k = false) : x.setWidth 32 &&& m = 0 := by
  apply BitVec.eq_of_getLsbD_eq
  intro k hk
  by_cases hn : k < n
  · simp [h k hk hn]
  · simp [BitVec.getLsbD_of_ge x k (by omega)]

theorem fbwr (addr : Nat) (byte : Byte) : Statement (.fbwr addr byte) :=
  selects_fields (mo := 0xFF) (mr := 0xFF) (mb := 0) (ma := 0xFFFFFF00) (po := 4) (pr := 0) (pb := 0) (pa := 0)
    rfl rfl (by simp [Instr.opcode]) rfl (by simp) (setWidth_and_high byte _ (by decide))

theorem srst : Statement .srst := by unfold Statement; decide

theorem csclr : Statement .csclr := by unfold Statement; decide

theorem csaddw (word : Half) : Statement (.csaddw word) :=
  selects_fields (mo := 0xFF) (mr := 0xFF) (mb := 0xFFFF) (ma := 0xFFFF0000) (po := 0x11) (pr := 0) (pb := 0) (pa := 0)
    rfl rfl (by simp [Instr.opcode]) rfl (by simp [Instr.fieldB]) (setWidth_and_high word _ (by decide))

theorem csaddb (byte : Byte) : Statement (.csaddb byte) :=
  selects_fields (mo := 0xFF) (mr := 0xFF) (mb := 0xFFFF) (ma := 0xFFFFFF00) (po := 0x12) (pr := 0) (pb := 0) (pa := 0)
    rfl rfl (by simp [Instr.opcode]) rfl (by simp [Instr.fieldB]) (setWidth_and_high byte _ (by decide))

theorem csbuf (mode : ChecksumMode) : Statement (.csbuf mode) := by
  cases mode <;> unfold Statement <;> decide

theorem encdata (plen : Nat) : Statement (.encdata plen) :=
  selects_fields (mo := 0xFF) (mr := 0xFF) (mb := 0) (ma := 0xFFFFFFFF) (po := 0x20) (pr := 0) (pb := 0) (pa := 0)
    rfl rfl (by simp [Instr.opcode]) rfl (by simp) (by simp [Instr.fieldA])

theorem encack (seq : Word) : Statement (.encack seq) :=
  selects_fields (mo := 0xFF) (mr := 0xFF) (mb := 0xFFFF) (ma := 0) (po := 0x21) (pr := 0) (pb := 0) (pa := 0)
    rfl rfl (by simp [Instr.opcode]) rfl (by simp [Instr.fieldB]) (by simp)

theorem encclose : Statement .encclose := by unfold Statement; decide

theorem dec : Statement .dec := by unfold Statement; decide

theorem tmarm : Statement .tmarm := by unfold Statement; decide

theorem tmstop : Statement .tmstop := by unfold Statement; decide

theorem tmpoll : Statement .tmpoll := by unfold Statement; decide

end EncodeSelectsRow

end Sys2Proof.Laws
end

