-- ==== Sys2Proof/Laws/Decode.lean ====
section
/-! SUPPORT. Sys2Proof/Laws/Decode.lean: the fields of a command word, and the opcode map's rows as opcodes. -/

namespace Sys2Proof.Laws

/-- Each bit of a word given by its fields. -/
theorem getLsbD_fields (o r : BitVec 8) (b : BitVec 16) (a : BitVec 32) (k : Nat) :
    (fields o r b a).getLsbD k =
      if k < 32 then a.getLsbD k else if k < 48 then b.getLsbD (k - 32)
      else if k < 56 then r.getLsbD (k - 48) else o.getLsbD (k - 56) := by
  show BitVec.getLsbD (w := 8 + 8 + 16 + 32) (o ++ r ++ b ++ a) k = _
  rw [BitVec.getLsbD_append, BitVec.getLsbD_append, BitVec.getLsbD_append]
  by_cases h1 : k < 32
  · simp [h1]
  · by_cases h2 : k < 48
    · simp [h1, h2, show k - 32 < 16 by omega]
    · by_cases h3 : k < 56
      · simp [h1, h2, h3, show ¬ k - 32 < 16 by omega, show k - 32 - 16 = k - 48 by omega,
          show k - 48 < 8 by omega]
      · simp [h1, h2, h3, show ¬ k - 32 < 16 by omega, show ¬ k - 32 - 16 < 8 by omega,
          show k - 32 - 16 - 8 = k - 56 by omega]

theorem opc_fields (o r : BitVec 8) (b : BitVec 16) (a : BitVec 32) : CmdWord.opc (fields o r b a) = o := by
  apply BitVec.eq_of_getLsbD_eq
  intro i hi
  rw [CmdWord.opc, BitVec.getLsbD_extractLsb', getLsbD_fields, if_neg (by omega), if_neg (by omega),
    if_neg (by omega), Nat.add_sub_cancel_left]
  simp [hi]

theorem rsv_fields (o r : BitVec 8) (b : BitVec 16) (a : BitVec 32) : CmdWord.rsv (fields o r b a) = r := by
  apply BitVec.eq_of_getLsbD_eq
  intro i hi
  rw [CmdWord.rsv, BitVec.getLsbD_extractLsb', getLsbD_fields, if_neg (by omega), if_neg (by omega),
    if_pos (by omega), Nat.add_sub_cancel_left]
  simp [hi]

theorem b_fields (o r : BitVec 8) (b : BitVec 16) (a : BitVec 32) : CmdWord.b (fields o r b a) = b := by
  apply BitVec.eq_of_getLsbD_eq
  intro i hi
  rw [CmdWord.b, BitVec.getLsbD_extractLsb', getLsbD_fields, if_neg (by omega), if_pos (by omega),
    Nat.add_sub_cancel_left]
  simp [hi]

theorem a_fields (o r : BitVec 8) (b : BitVec 16) (a : BitVec 32) : CmdWord.a (fields o r b a) = a := by
  apply BitVec.eq_of_getLsbD_eq
  intro i hi
  rw [CmdWord.a, BitVec.getLsbD_extractLsb', getLsbD_fields, if_pos (by omega), Nat.zero_add]
  simp [hi]

/-- A word is its four fields joined (R60). -/
theorem fields_eq (w : CmdWord) : fields (CmdWord.opc w) (CmdWord.rsv w) (CmdWord.b w) (CmdWord.a w) = w := by
  apply BitVec.eq_of_getLsbD_eq
  intro i hi
  simp only [getLsbD_fields, CmdWord.opc, CmdWord.rsv, CmdWord.b, CmdWord.a, BitVec.getLsbD_extractLsb']
  split
  · simp [*]
  · split
    · simp [show i - 32 < 16 by omega, show 32 + (i - 32) = i by omega]
    · split
      · simp [show i - 48 < 8 by omega, show 48 + (i - 48) = i by omega]
      · simp [show i - 56 < 8 by omega, show 56 + (i - 56) = i by omega]

/-- What the encoder joins. -/
theorem encode_eq_fields (i : Instr) : encode i = fields i.opcode 0 i.fieldB i.fieldA := rfl

/-- Joined fields are equal only if each is. -/
theorem fields_inj {o r o' r' : BitVec 8} {b b' : BitVec 16} {a a' : BitVec 32}
    (h : fields o r b a = fields o' r' b' a') : o = o' ∧ r = r' ∧ b = b' ∧ a = a' :=
  ⟨by simpa only [opc_fields] using congrArg CmdWord.opc h, by simpa only [rsv_fields] using congrArg CmdWord.rsv h,
   by simpa only [b_fields] using congrArg CmdWord.b h, by simpa only [a_fields] using congrArg CmdWord.a h⟩

/-- The masks and patterns of every row fix `OPC` and `RSV` whole (R63). -/
theorem row_fixes_opc (m : Mnemonic) :
    CmdWord.opc m.mask = 0xFF ∧ CmdWord.rsv m.mask = 0xFF ∧ CmdWord.rsv m.pattern = 0 := by
  cases m <;> decide

/-- A row selects a word exactly when each masked field matches. -/
theorem selects_iff (m : Mnemonic) (w : CmdWord) :
    m.selects w = true ↔
      CmdWord.opc w = CmdWord.opc m.pattern ∧ CmdWord.rsv w = 0 ∧
      CmdWord.b w &&& CmdWord.b m.mask = CmdWord.b m.pattern ∧
      CmdWord.a w &&& CmdWord.a m.mask = CmdWord.a m.pattern := by
  obtain ⟨ho, hr, hp⟩ := row_fixes_opc m
  have hones : ∀ x : BitVec 8, x &&& 0xFF = x := fun x => BitVec.and_allOnes
  simp only [Mnemonic.selects, beq_iff_eq]
  rw [← fields_eq w, ← fields_eq m.mask, ← fields_eq m.pattern, fields_and]
  simp only [opc_fields, rsv_fields, b_fields, a_fields, ho, hr, hp, hones]
  constructor
  · exact fields_inj
  · rintro ⟨h1, h2, h3, h4⟩
    rw [h1, h2, h3, h4]

/-- Two rows with the same opcode are the same row (R63: each fixes a different `OPC`). -/
theorem opc_pattern_inj : ∀ {m m' : Mnemonic}, CmdWord.opc m.pattern = CmdWord.opc m'.pattern → m = m' := by
  intro m m' h
  cases m <;> cases m' <;> first | rfl | (exact absurd h (by decide))

/-- Every mnemonic is in the table. -/
theorem mem_all (m : Mnemonic) : m ∈ Mnemonic.all := by cases m <;> decide

end Sys2Proof.Laws
end

