-- ==== Sys2Proof/Laws/Memory.lean ====
section
/-! SUPPORT. Sys2Proof/Laws/Memory.lean: the list of written bytes: read after write, the canonical form kept by every
operation, and equal contents make equal lists. -/

namespace Sys2Proof.Machine

@[simp] theorem Memory.get?_nil (a : Nat) : Memory.get? [] a = none := rfl

@[simp] theorem Memory.get?_cons (c : Host.Cell) (m : Memory) (a : Nat) :
    Memory.get? (c :: m) a = if c.1 = a then some c.2 else Memory.get? m a := rfl

/-- A listed address is one of a cell. -/
theorem Memory.mem_of_get? {m : Memory} {a : Nat} {b : Byte} (h : m.get? a = some b) : (a, b) ∈ m := by
  induction m with
  | nil => simp at h
  | cons c m ih =>
    rw [Memory.get?_cons] at h
    split at h
    · next hc => simp only [Option.some.injEq] at h; subst hc; subst h; exact List.mem_cons_self
    · exact List.mem_cons_of_mem _ (ih h)

/-- Reading the byte just written. -/
theorem Memory.get?_put_self (m : Memory) (a : Nat) (b : Byte) : (m.put a b).get? a = some b := by
  induction m with
  | nil => simp [Memory.put]
  | cons c m ih =>
    unfold Memory.put
    split
    · simp
    · split
      · simp
      · next h => rw [Memory.get?_cons, if_neg (fun e => h e.symm)]; exact ih

/-- A write leaves every other address alone. -/
theorem Memory.get?_put_of_ne (m : Memory) {a x : Nat} (b : Byte) (hx : x ≠ a) :
    (m.put a b).get? x = m.get? x := by
  induction m with
  | nil => simp [Memory.put, Ne.symm hx]
  | cons c m ih =>
    unfold Memory.put
    split
    · rw [Memory.get?_cons, if_neg (Ne.symm hx)]
    · split
      · next h => subst h; simp [Ne.symm hx]
      · rw [Memory.get?_cons, Memory.get?_cons, ih]

/-- What a cell of the memory after a write is. -/
theorem Memory.mem_put {m : Memory} {a : Nat} {b : Byte} {c : Host.Cell} (h : c ∈ m.put a b) :
    c = (a, b) ∨ c ∈ m := by
  induction m with
  | nil => exact .inl (by simpa [Memory.put] using h)
  | cons d m ih =>
    unfold Memory.put at h
    split at h
    · rcases List.mem_cons.1 h with rfl | h
      · exact .inl rfl
      · exact .inr h
    · split at h
      · rcases List.mem_cons.1 h with rfl | h
        · exact .inl rfl
        · exact .inr (List.mem_cons_of_mem _ h)
      · rcases List.mem_cons.1 h with rfl | h
        · exact .inr List.mem_cons_self
        · exact (ih h).imp_right (List.mem_cons_of_mem _)

/-- A write keeps the canonical form. -/
theorem Memory.put_wf {m : Memory} (h : m.wf) (a : Nat) (b : Byte) : (m.put a b).wf := by
  induction m with
  | nil => simp [Memory.put, Memory.wf]
  | cons c m ih =>
    obtain ⟨hc, hm⟩ := List.pairwise_cons.1 h
    unfold Memory.put
    split
    · next hlt =>
      refine List.pairwise_cons.2 ⟨fun d hd => ?_, h⟩
      rcases List.mem_cons.1 hd with rfl | hd
      · exact hlt
      · exact Nat.lt_trans hlt (hc d hd)
    · split
      · next heq => subst heq; exact List.pairwise_cons.2 ⟨hc, hm⟩
      · next hlt hne =>
        refine List.pairwise_cons.2 ⟨fun d hd => ?_, ih hm⟩
        rcases Memory.mem_put hd with rfl | hd
        · show c.1 < a
          omega
        · exact hc d hd

theorem Memory.putHalf_wf {m : Memory} (h : m.wf) (a : Nat) (v : Half) : (m.putHalf a v).wf :=
  Memory.put_wf (Memory.put_wf h _ _) _ _

theorem Memory.putWord_wf {m : Memory} (h : m.wf) (a : Nat) (v : Word) : (m.putWord a v).wf :=
  Memory.putHalf_wf (Memory.putHalf_wf h _ _) _ _

/-- The cells after a 2-byte write at `a` are below a bound above `a + 1`. -/
theorem Memory.putHalf_lt {m : Memory} {n a : Nat} {v : Half} (h : ∀ c ∈ m, c.1 < n) (ha : a + 1 < n) :
    ∀ c ∈ m.putHalf a v, c.1 < n := by
  intro c hc
  rcases Memory.mem_put hc with rfl | hc
  · exact ha
  · rcases Memory.mem_put hc with rfl | hc
    · exact Nat.lt_of_succ_lt ha
    · exact h c hc

theorem Memory.putWord_lt {m : Memory} {n a : Nat} {v : Word} (h : ∀ c ∈ m, c.1 < n) (ha : a + 3 < n) :
    ∀ c ∈ m.putWord a v, c.1 < n :=
  Memory.putHalf_lt (Memory.putHalf_lt h (by omega)) ha

/-- In canonical form the first cell's address is below every other listed address. -/
theorem Memory.get?_lt_head {c : Host.Cell} {m : Memory} (h : Memory.wf (c :: m)) {a : Nat} (ha : a ≤ c.1) :
    Memory.get? m a = none := by
  cases hg : Memory.get? m a with
  | none => rfl
  | some b =>
    have := (List.pairwise_cons.1 h).1 _ (Memory.mem_of_get? hg)
    simp only at this
    omega

/-- Two memories in canonical form that hold the same written bytes are the same list. -/
theorem Memory.ext_of_wf {m n : Memory} (hm : m.wf) (hn : n.wf) (h : ∀ a, m.get? a = n.get? a) : m = n := by
  induction m generalizing n with
  | nil =>
    cases n with
    | nil => rfl
    | cons d n => have := h d.1; simp at this
  | cons c m ih =>
    cases n with
    | nil => have := h c.1; simp at this
    | cons d n =>
      have hc := h c.1
      have hd := h d.1
      rw [Memory.get?_cons, Memory.get?_cons, if_pos rfl] at hc
      rw [Memory.get?_cons, Memory.get?_cons, if_pos (rfl : d.1 = d.1)] at hd
      have heq : c.1 = d.1 := by
        rcases Nat.lt_trichotomy c.1 d.1 with hlt | heq | hlt
        · rw [if_neg (by omega), Memory.get?_lt_head hn (by omega)] at hc
          cases hc
        · exact heq
        · rw [if_neg (by omega), Memory.get?_lt_head hm (by omega)] at hd
          cases hd
      have hb : c = d := by
        rw [if_pos heq.symm] at hc
        exact Prod.ext heq (Option.some.inj hc)
      subst hb
      refine congrArg _ (ih (List.pairwise_cons.1 hm).2 (List.pairwise_cons.1 hn).2 fun a => ?_)
      by_cases ha : c.1 = a
      · rw [Memory.get?_lt_head hm (by omega), Memory.get?_lt_head hn (by omega)]
      · have := h a
        rwa [Memory.get?_cons, Memory.get?_cons, if_neg ha, if_neg ha] at this

end Sys2Proof.Machine
end

