-- ==== Sys2Proof/Laws/State.lean ====
section
/-! SUPPORT. Sys2Proof/Laws/State.lean: for each named update of the state, what every field is after it: one lemma per field,
true by unfolding, so that no later proof unfolds a record update. -/

namespace Sys2Proof.Machine


/-! ### `writeByte` -/

@[simp] theorem State.writeByte_par (s : State) (a : Nat) (b : Byte) : (s.writeByte a b).par = s.par := rfl
@[simp] theorem State.writeByte_errs (s : State) (a : Nat) (b : Byte) : (s.writeByte a b).errs = s.errs := rfl
@[simp] theorem State.writeByte_mss (s : State) (a : Nat) (b : Byte) : (s.writeByte a b).mss = s.mss := rfl
@[simp] theorem State.writeByte_flen (s : State) (a : Nat) (b : Byte) : (s.writeByte a b).flen = s.flen := rfl
@[simp] theorem State.writeByte_seq (s : State) (a : Nat) (b : Byte) : (s.writeByte a b).seq = s.seq := rfl
@[simp] theorem State.writeByte_acc (s : State) (a : Nat) (b : Byte) : (s.writeByte a b).acc = s.acc := rfl
@[simp] theorem State.writeByte_rxseq (s : State) (a : Nat) (b : Byte) : (s.writeByte a b).rxseq = s.rxseq := rfl
@[simp] theorem State.writeByte_rxcsum (s : State) (a : Nat) (b : Byte) : (s.writeByte a b).rxcsum = s.rxcsum := rfl
@[simp] theorem State.writeByte_rxflag (s : State) (a : Nat) (b : Byte) : (s.writeByte a b).rxflag = s.rxflag := rfl
@[simp] theorem State.writeByte_rxplen (s : State) (a : Nat) (b : Byte) : (s.writeByte a b).rxplen = s.rxplen := rfl
@[simp] theorem State.writeByte_rxstat (s : State) (a : Nat) (b : Byte) : (s.writeByte a b).rxstat = s.rxstat := rfl
@[simp] theorem State.writeByte_tmo (s : State) (a : Nat) (b : Byte) : (s.writeByte a b).tmo = s.tmo := rfl
@[simp] theorem State.writeByte_armed (s : State) (a : Nat) (b : Byte) : (s.writeByte a b).armed = s.armed := rfl
@[simp] theorem State.writeByte_deadline (s : State) (a : Nat) (b : Byte) : (s.writeByte a b).deadline = s.deadline := rfl
@[simp] theorem State.writeByte_fb (s : State) (a : Nat) (b : Byte) : (s.writeByte a b).fb = s.fb.put a b := rfl
@[simp] theorem State.writeByte_fbEpoch (s : State) (a : Nat) (b : Byte) : (s.writeByte a b).fbEpoch = s.fbEpoch := rfl
@[simp] theorem State.writeByte_rsp (s : State) (a : Nat) (b : Byte) : (s.writeByte a b).rsp = s.rsp := rfl
@[simp] theorem State.writeByte_now (s : State) (a : Nat) (b : Byte) : (s.writeByte a b).now = s.now := rfl
@[simp] theorem State.writeByte_inputs (s : State) (a : Nat) (b : Byte) : (s.writeByte a b).inputs = s.inputs := rfl
@[simp] theorem State.writeByte_delivered (s : State) (a : Nat) (b : Byte) : (s.writeByte a b).delivered = s.delivered := rfl

/-! ### `writeHalf` -/

@[simp] theorem State.writeHalf_par (s : State) (a : Nat) (v : Half) : (s.writeHalf a v).par = s.par := rfl
@[simp] theorem State.writeHalf_errs (s : State) (a : Nat) (v : Half) : (s.writeHalf a v).errs = s.errs := rfl
@[simp] theorem State.writeHalf_mss (s : State) (a : Nat) (v : Half) : (s.writeHalf a v).mss = s.mss := rfl
@[simp] theorem State.writeHalf_flen (s : State) (a : Nat) (v : Half) : (s.writeHalf a v).flen = s.flen := rfl
@[simp] theorem State.writeHalf_seq (s : State) (a : Nat) (v : Half) : (s.writeHalf a v).seq = s.seq := rfl
@[simp] theorem State.writeHalf_acc (s : State) (a : Nat) (v : Half) : (s.writeHalf a v).acc = s.acc := rfl
@[simp] theorem State.writeHalf_rxseq (s : State) (a : Nat) (v : Half) : (s.writeHalf a v).rxseq = s.rxseq := rfl
@[simp] theorem State.writeHalf_rxcsum (s : State) (a : Nat) (v : Half) : (s.writeHalf a v).rxcsum = s.rxcsum := rfl
@[simp] theorem State.writeHalf_rxflag (s : State) (a : Nat) (v : Half) : (s.writeHalf a v).rxflag = s.rxflag := rfl
@[simp] theorem State.writeHalf_rxplen (s : State) (a : Nat) (v : Half) : (s.writeHalf a v).rxplen = s.rxplen := rfl
@[simp] theorem State.writeHalf_rxstat (s : State) (a : Nat) (v : Half) : (s.writeHalf a v).rxstat = s.rxstat := rfl
@[simp] theorem State.writeHalf_tmo (s : State) (a : Nat) (v : Half) : (s.writeHalf a v).tmo = s.tmo := rfl
@[simp] theorem State.writeHalf_armed (s : State) (a : Nat) (v : Half) : (s.writeHalf a v).armed = s.armed := rfl
@[simp] theorem State.writeHalf_deadline (s : State) (a : Nat) (v : Half) : (s.writeHalf a v).deadline = s.deadline := rfl
@[simp] theorem State.writeHalf_fbEpoch (s : State) (a : Nat) (v : Half) : (s.writeHalf a v).fbEpoch = s.fbEpoch := rfl
@[simp] theorem State.writeHalf_rsp (s : State) (a : Nat) (v : Half) : (s.writeHalf a v).rsp = s.rsp := rfl
@[simp] theorem State.writeHalf_now (s : State) (a : Nat) (v : Half) : (s.writeHalf a v).now = s.now := rfl
@[simp] theorem State.writeHalf_inputs (s : State) (a : Nat) (v : Half) : (s.writeHalf a v).inputs = s.inputs := rfl
@[simp] theorem State.writeHalf_delivered (s : State) (a : Nat) (v : Half) : (s.writeHalf a v).delivered = s.delivered := rfl
@[simp] theorem State.writeHalf_fb (s : State) (a : Nat) (v : Half) :
    (s.writeHalf a v).fb = s.fb.putHalf a v := rfl

/-! ### `writeWord` -/

@[simp] theorem State.writeWord_par (s : State) (a : Nat) (v : Word) : (s.writeWord a v).par = s.par := rfl
@[simp] theorem State.writeWord_errs (s : State) (a : Nat) (v : Word) : (s.writeWord a v).errs = s.errs := rfl
@[simp] theorem State.writeWord_mss (s : State) (a : Nat) (v : Word) : (s.writeWord a v).mss = s.mss := rfl
@[simp] theorem State.writeWord_flen (s : State) (a : Nat) (v : Word) : (s.writeWord a v).flen = s.flen := rfl
@[simp] theorem State.writeWord_seq (s : State) (a : Nat) (v : Word) : (s.writeWord a v).seq = s.seq := rfl
@[simp] theorem State.writeWord_acc (s : State) (a : Nat) (v : Word) : (s.writeWord a v).acc = s.acc := rfl
@[simp] theorem State.writeWord_rxseq (s : State) (a : Nat) (v : Word) : (s.writeWord a v).rxseq = s.rxseq := rfl
@[simp] theorem State.writeWord_rxcsum (s : State) (a : Nat) (v : Word) : (s.writeWord a v).rxcsum = s.rxcsum := rfl
@[simp] theorem State.writeWord_rxflag (s : State) (a : Nat) (v : Word) : (s.writeWord a v).rxflag = s.rxflag := rfl
@[simp] theorem State.writeWord_rxplen (s : State) (a : Nat) (v : Word) : (s.writeWord a v).rxplen = s.rxplen := rfl
@[simp] theorem State.writeWord_rxstat (s : State) (a : Nat) (v : Word) : (s.writeWord a v).rxstat = s.rxstat := rfl
@[simp] theorem State.writeWord_tmo (s : State) (a : Nat) (v : Word) : (s.writeWord a v).tmo = s.tmo := rfl
@[simp] theorem State.writeWord_armed (s : State) (a : Nat) (v : Word) : (s.writeWord a v).armed = s.armed := rfl
@[simp] theorem State.writeWord_deadline (s : State) (a : Nat) (v : Word) : (s.writeWord a v).deadline = s.deadline := rfl
@[simp] theorem State.writeWord_fbEpoch (s : State) (a : Nat) (v : Word) : (s.writeWord a v).fbEpoch = s.fbEpoch := rfl
@[simp] theorem State.writeWord_rsp (s : State) (a : Nat) (v : Word) : (s.writeWord a v).rsp = s.rsp := rfl
@[simp] theorem State.writeWord_now (s : State) (a : Nat) (v : Word) : (s.writeWord a v).now = s.now := rfl
@[simp] theorem State.writeWord_inputs (s : State) (a : Nat) (v : Word) : (s.writeWord a v).inputs = s.inputs := rfl
@[simp] theorem State.writeWord_delivered (s : State) (a : Nat) (v : Word) : (s.writeWord a v).delivered = s.delivered := rfl
@[simp] theorem State.writeWord_fb (s : State) (a : Nat) (v : Word) :
    (s.writeWord a v).fb = s.fb.putWord a v := rfl

/-! ### `putHeader` -/

@[simp] theorem State.putHeader_par (s : State) (q : Word) (f : Half) : (s.putHeader q f).par = s.par := by simp [State.putHeader]
@[simp] theorem State.putHeader_errs (s : State) (q : Word) (f : Half) : (s.putHeader q f).errs = s.errs := by simp [State.putHeader]
@[simp] theorem State.putHeader_mss (s : State) (q : Word) (f : Half) : (s.putHeader q f).mss = s.mss := by simp [State.putHeader]
@[simp] theorem State.putHeader_flen (s : State) (q : Word) (f : Half) : (s.putHeader q f).flen = s.flen := by simp [State.putHeader]
@[simp] theorem State.putHeader_seq (s : State) (q : Word) (f : Half) : (s.putHeader q f).seq = s.seq := by simp [State.putHeader]
@[simp] theorem State.putHeader_acc (s : State) (q : Word) (f : Half) : (s.putHeader q f).acc = s.acc := by simp [State.putHeader]
@[simp] theorem State.putHeader_rxseq (s : State) (q : Word) (f : Half) : (s.putHeader q f).rxseq = s.rxseq := by simp [State.putHeader]
@[simp] theorem State.putHeader_rxcsum (s : State) (q : Word) (f : Half) : (s.putHeader q f).rxcsum = s.rxcsum := by simp [State.putHeader]
@[simp] theorem State.putHeader_rxflag (s : State) (q : Word) (f : Half) : (s.putHeader q f).rxflag = s.rxflag := by simp [State.putHeader]
@[simp] theorem State.putHeader_rxplen (s : State) (q : Word) (f : Half) : (s.putHeader q f).rxplen = s.rxplen := by simp [State.putHeader]
@[simp] theorem State.putHeader_rxstat (s : State) (q : Word) (f : Half) : (s.putHeader q f).rxstat = s.rxstat := by simp [State.putHeader]
@[simp] theorem State.putHeader_tmo (s : State) (q : Word) (f : Half) : (s.putHeader q f).tmo = s.tmo := by simp [State.putHeader]
@[simp] theorem State.putHeader_armed (s : State) (q : Word) (f : Half) : (s.putHeader q f).armed = s.armed := by simp [State.putHeader]
@[simp] theorem State.putHeader_deadline (s : State) (q : Word) (f : Half) : (s.putHeader q f).deadline = s.deadline := by simp [State.putHeader]
@[simp] theorem State.putHeader_fbEpoch (s : State) (q : Word) (f : Half) : (s.putHeader q f).fbEpoch = s.fbEpoch := by simp [State.putHeader]
@[simp] theorem State.putHeader_rsp (s : State) (q : Word) (f : Half) : (s.putHeader q f).rsp = s.rsp := by simp [State.putHeader]
@[simp] theorem State.putHeader_now (s : State) (q : Word) (f : Half) : (s.putHeader q f).now = s.now := by simp [State.putHeader]
@[simp] theorem State.putHeader_inputs (s : State) (q : Word) (f : Half) : (s.putHeader q f).inputs = s.inputs := by simp [State.putHeader]
@[simp] theorem State.putHeader_delivered (s : State) (q : Word) (f : Half) : (s.putHeader q f).delivered = s.delivered := by simp [State.putHeader]
@[simp] theorem State.putHeader_fb (s : State) (q : Word) (f : Half) :
    (s.putHeader q f).fb = ((s.fb.putWord 0 q).putHalf 4 0).putHalf 6 f := rfl

/-! ### `seal` -/

@[simp] theorem State.seal_par (s : State) : (s.seal).par = s.par := by simp [State.seal]
@[simp] theorem State.seal_errs (s : State) : (s.seal).errs = s.errs := by simp [State.seal]
@[simp] theorem State.seal_mss (s : State) : (s.seal).mss = s.mss := by simp [State.seal]
@[simp] theorem State.seal_flen (s : State) : (s.seal).flen = s.flen := by simp [State.seal]
@[simp] theorem State.seal_seq (s : State) : (s.seal).seq = s.seq := by simp [State.seal]
@[simp] theorem State.seal_acc (s : State) : (s.seal).acc = s.frameChecksum := by simp [State.seal]
@[simp] theorem State.seal_rxseq (s : State) : (s.seal).rxseq = s.rxseq := by simp [State.seal]
@[simp] theorem State.seal_rxcsum (s : State) : (s.seal).rxcsum = s.rxcsum := by simp [State.seal]
@[simp] theorem State.seal_rxflag (s : State) : (s.seal).rxflag = s.rxflag := by simp [State.seal]
@[simp] theorem State.seal_rxplen (s : State) : (s.seal).rxplen = s.rxplen := by simp [State.seal]
@[simp] theorem State.seal_rxstat (s : State) : (s.seal).rxstat = s.rxstat := by simp [State.seal]
@[simp] theorem State.seal_tmo (s : State) : (s.seal).tmo = s.tmo := by simp [State.seal]
@[simp] theorem State.seal_armed (s : State) : (s.seal).armed = s.armed := by simp [State.seal]
@[simp] theorem State.seal_deadline (s : State) : (s.seal).deadline = s.deadline := by simp [State.seal]
@[simp] theorem State.seal_fbEpoch (s : State) : (s.seal).fbEpoch = s.fbEpoch := by simp [State.seal]
@[simp] theorem State.seal_rsp (s : State) : (s.seal).rsp = s.rsp := by simp [State.seal]
@[simp] theorem State.seal_now (s : State) : (s.seal).now = s.now := by simp [State.seal]
@[simp] theorem State.seal_inputs (s : State) : (s.seal).inputs = s.inputs := by simp [State.seal]
@[simp] theorem State.seal_delivered (s : State) : (s.seal).delivered = s.delivered := by simp [State.seal]
@[simp] theorem State.seal_fb (s : State) : s.seal.fb = s.fb.putHalf 4 s.frameChecksum := rfl

/-! ### `frame` -/

@[simp] theorem State.frame_par (s : State) (q : Word) (f : Half) (n : Nat) : (s.frame q f n).par = s.par := by simp [State.frame]
@[simp] theorem State.frame_errs (s : State) (q : Word) (f : Half) (n : Nat) : (s.frame q f n).errs = s.errs := by simp [State.frame]
@[simp] theorem State.frame_mss (s : State) (q : Word) (f : Half) (n : Nat) : (s.frame q f n).mss = s.mss := by simp [State.frame]
@[simp] theorem State.frame_flen (s : State) (q : Word) (f : Half) (n : Nat) : (s.frame q f n).flen = BitVec.ofNat 17 (8 + n) := by simp [State.frame]
@[simp] theorem State.frame_seq (s : State) (q : Word) (f : Half) (n : Nat) : (s.frame q f n).seq = s.seq := by simp [State.frame]
@[simp] theorem State.frame_rxseq (s : State) (q : Word) (f : Half) (n : Nat) : (s.frame q f n).rxseq = s.rxseq := by simp [State.frame]
@[simp] theorem State.frame_rxcsum (s : State) (q : Word) (f : Half) (n : Nat) : (s.frame q f n).rxcsum = s.rxcsum := by simp [State.frame]
@[simp] theorem State.frame_rxflag (s : State) (q : Word) (f : Half) (n : Nat) : (s.frame q f n).rxflag = s.rxflag := by simp [State.frame]
@[simp] theorem State.frame_rxplen (s : State) (q : Word) (f : Half) (n : Nat) : (s.frame q f n).rxplen = s.rxplen := by simp [State.frame]
@[simp] theorem State.frame_rxstat (s : State) (q : Word) (f : Half) (n : Nat) : (s.frame q f n).rxstat = s.rxstat := by simp [State.frame]
@[simp] theorem State.frame_tmo (s : State) (q : Word) (f : Half) (n : Nat) : (s.frame q f n).tmo = s.tmo := by simp [State.frame]
@[simp] theorem State.frame_armed (s : State) (q : Word) (f : Half) (n : Nat) : (s.frame q f n).armed = s.armed := by simp [State.frame]
@[simp] theorem State.frame_deadline (s : State) (q : Word) (f : Half) (n : Nat) : (s.frame q f n).deadline = s.deadline := by simp [State.frame]
@[simp] theorem State.frame_fbEpoch (s : State) (q : Word) (f : Half) (n : Nat) : (s.frame q f n).fbEpoch = s.fbEpoch := by simp [State.frame]
@[simp] theorem State.frame_rsp (s : State) (q : Word) (f : Half) (n : Nat) : (s.frame q f n).rsp = s.rsp := by simp [State.frame]
@[simp] theorem State.frame_now (s : State) (q : Word) (f : Half) (n : Nat) : (s.frame q f n).now = s.now := by simp [State.frame]
@[simp] theorem State.frame_inputs (s : State) (q : Word) (f : Half) (n : Nat) : (s.frame q f n).inputs = s.inputs := by simp [State.frame]
@[simp] theorem State.frame_delivered (s : State) (q : Word) (f : Half) (n : Nat) : (s.frame q f n).delivered = s.delivered := by simp [State.frame]

/-! ### `resetRegisters` -/

@[simp] theorem State.resetRegisters_par (s : State) : (s.resetRegisters).par = s.par := rfl
@[simp] theorem State.resetRegisters_errs (s : State) : (s.resetRegisters).errs = 0 := rfl
@[simp] theorem State.resetRegisters_mss (s : State) : (s.resetRegisters).mss = BitVec.ofNat 16 s.par.mssMax := rfl
@[simp] theorem State.resetRegisters_flen (s : State) : (s.resetRegisters).flen = 0 := rfl
@[simp] theorem State.resetRegisters_seq (s : State) : (s.resetRegisters).seq = 0 := rfl
@[simp] theorem State.resetRegisters_acc (s : State) : (s.resetRegisters).acc = 0 := rfl
@[simp] theorem State.resetRegisters_rxseq (s : State) : (s.resetRegisters).rxseq = 0 := rfl
@[simp] theorem State.resetRegisters_rxcsum (s : State) : (s.resetRegisters).rxcsum = 0 := rfl
@[simp] theorem State.resetRegisters_rxflag (s : State) : (s.resetRegisters).rxflag = 0 := rfl
@[simp] theorem State.resetRegisters_rxplen (s : State) : (s.resetRegisters).rxplen = 0 := rfl
@[simp] theorem State.resetRegisters_rxstat (s : State) : (s.resetRegisters).rxstat = 0 := rfl
@[simp] theorem State.resetRegisters_tmo (s : State) : (s.resetRegisters).tmo = s.par.tmoReset := rfl
@[simp] theorem State.resetRegisters_armed (s : State) : (s.resetRegisters).armed = false := rfl
@[simp] theorem State.resetRegisters_deadline (s : State) : (s.resetRegisters).deadline = 0 := rfl
@[simp] theorem State.resetRegisters_fb (s : State) : (s.resetRegisters).fb = s.fb := rfl
@[simp] theorem State.resetRegisters_fbEpoch (s : State) : (s.resetRegisters).fbEpoch = s.fbEpoch := rfl
@[simp] theorem State.resetRegisters_rsp (s : State) : (s.resetRegisters).rsp = s.rsp := rfl
@[simp] theorem State.resetRegisters_now (s : State) : (s.resetRegisters).now = s.now := rfl
@[simp] theorem State.resetRegisters_inputs (s : State) : (s.resetRegisters).inputs = s.inputs := rfl
@[simp] theorem State.resetRegisters_delivered (s : State) : (s.resetRegisters).delivered = s.delivered := rfl

/-! ### `hardReset` -/

@[simp] theorem State.hardReset_par (s : State) : (s.hardReset).par = s.par := rfl
@[simp] theorem State.hardReset_errs (s : State) : (s.hardReset).errs = 0 := rfl
@[simp] theorem State.hardReset_mss (s : State) : (s.hardReset).mss = BitVec.ofNat 16 s.par.mssMax := rfl
@[simp] theorem State.hardReset_flen (s : State) : (s.hardReset).flen = 0 := rfl
@[simp] theorem State.hardReset_seq (s : State) : (s.hardReset).seq = 0 := rfl
@[simp] theorem State.hardReset_acc (s : State) : (s.hardReset).acc = 0 := rfl
@[simp] theorem State.hardReset_rxseq (s : State) : (s.hardReset).rxseq = 0 := rfl
@[simp] theorem State.hardReset_rxcsum (s : State) : (s.hardReset).rxcsum = 0 := rfl
@[simp] theorem State.hardReset_rxflag (s : State) : (s.hardReset).rxflag = 0 := rfl
@[simp] theorem State.hardReset_rxplen (s : State) : (s.hardReset).rxplen = 0 := rfl
@[simp] theorem State.hardReset_rxstat (s : State) : (s.hardReset).rxstat = 0 := rfl
@[simp] theorem State.hardReset_tmo (s : State) : (s.hardReset).tmo = s.par.tmoReset := rfl
@[simp] theorem State.hardReset_armed (s : State) : (s.hardReset).armed = false := rfl
@[simp] theorem State.hardReset_deadline (s : State) : (s.hardReset).deadline = 0 := rfl
@[simp] theorem State.hardReset_fb (s : State) : (s.hardReset).fb = [] := rfl
@[simp] theorem State.hardReset_fbEpoch (s : State) : (s.hardReset).fbEpoch = s.fbEpoch + 1 := rfl
@[simp] theorem State.hardReset_rsp (s : State) : (s.hardReset).rsp = none := rfl
@[simp] theorem State.hardReset_now (s : State) : (s.hardReset).now = s.now := rfl
@[simp] theorem State.hardReset_inputs (s : State) : (s.hardReset).inputs = s.inputs := rfl
@[simp] theorem State.hardReset_delivered (s : State) : (s.hardReset).delivered = s.delivered := rfl

/-! ### `decoded` -/

@[simp] theorem State.decoded_par (s : State) : (s.decoded).par = s.par := rfl
@[simp] theorem State.decoded_errs (s : State) : (s.decoded).errs = s.errs := rfl
@[simp] theorem State.decoded_mss (s : State) : (s.decoded).mss = s.mss := rfl
@[simp] theorem State.decoded_flen (s : State) : (s.decoded).flen = s.flen := rfl
@[simp] theorem State.decoded_seq (s : State) : (s.decoded).seq = s.seq := rfl
@[simp] theorem State.decoded_acc (s : State) : (s.decoded).acc = s.frameChecksum := rfl
@[simp] theorem State.decoded_rxseq (s : State) : (s.decoded).rxseq = s.readWord 0 := rfl
@[simp] theorem State.decoded_rxcsum (s : State) : (s.decoded).rxcsum = s.readHalf 4 := rfl
@[simp] theorem State.decoded_rxflag (s : State) : (s.decoded).rxflag = s.readHalf 6 := rfl
@[simp] theorem State.decoded_rxplen (s : State) : (s.decoded).rxplen = BitVec.ofNat 16 (s.flen.toNat - 8) := rfl
@[simp] theorem State.decoded_rxstat (s : State) : (s.decoded).rxstat = rxstatOf (s.frameChecksum = s.readHalf 4) (kindOf (s.readHalf 6))
      (lenOk (kindOf (s.readHalf 6)) (BitVec.ofNat 16 (s.flen.toNat - 8)) s.mss) := rfl
@[simp] theorem State.decoded_tmo (s : State) : (s.decoded).tmo = s.tmo := rfl
@[simp] theorem State.decoded_armed (s : State) : (s.decoded).armed = s.armed := rfl
@[simp] theorem State.decoded_deadline (s : State) : (s.decoded).deadline = s.deadline := rfl
@[simp] theorem State.decoded_fb (s : State) : (s.decoded).fb = s.fb := rfl
@[simp] theorem State.decoded_fbEpoch (s : State) : (s.decoded).fbEpoch = s.fbEpoch := rfl
@[simp] theorem State.decoded_rsp (s : State) : (s.decoded).rsp = s.rsp := rfl
@[simp] theorem State.decoded_now (s : State) : (s.decoded).now = s.now := rfl
@[simp] theorem State.decoded_inputs (s : State) : (s.decoded).inputs = s.inputs := rfl
@[simp] theorem State.decoded_delivered (s : State) : (s.decoded).delivered = s.delivered := rfl

/-! ### `deliver`: it changes `rsp` and `delivered` only -/

@[simp] theorem State.deliver_par (s : State) : s.deliver.par = s.par := by
  unfold State.deliver; split <;> rfl
@[simp] theorem State.deliver_errs (s : State) : s.deliver.errs = s.errs := by
  unfold State.deliver; split <;> rfl
@[simp] theorem State.deliver_mss (s : State) : s.deliver.mss = s.mss := by
  unfold State.deliver; split <;> rfl
@[simp] theorem State.deliver_flen (s : State) : s.deliver.flen = s.flen := by
  unfold State.deliver; split <;> rfl
@[simp] theorem State.deliver_seq (s : State) : s.deliver.seq = s.seq := by
  unfold State.deliver; split <;> rfl
@[simp] theorem State.deliver_acc (s : State) : s.deliver.acc = s.acc := by
  unfold State.deliver; split <;> rfl
@[simp] theorem State.deliver_rxseq (s : State) : s.deliver.rxseq = s.rxseq := by
  unfold State.deliver; split <;> rfl
@[simp] theorem State.deliver_rxcsum (s : State) : s.deliver.rxcsum = s.rxcsum := by
  unfold State.deliver; split <;> rfl
@[simp] theorem State.deliver_rxflag (s : State) : s.deliver.rxflag = s.rxflag := by
  unfold State.deliver; split <;> rfl
@[simp] theorem State.deliver_rxplen (s : State) : s.deliver.rxplen = s.rxplen := by
  unfold State.deliver; split <;> rfl
@[simp] theorem State.deliver_rxstat (s : State) : s.deliver.rxstat = s.rxstat := by
  unfold State.deliver; split <;> rfl
@[simp] theorem State.deliver_tmo (s : State) : s.deliver.tmo = s.tmo := by
  unfold State.deliver; split <;> rfl
@[simp] theorem State.deliver_armed (s : State) : s.deliver.armed = s.armed := by
  unfold State.deliver; split <;> rfl
@[simp] theorem State.deliver_deadline (s : State) : s.deliver.deadline = s.deadline := by
  unfold State.deliver; split <;> rfl
@[simp] theorem State.deliver_fb (s : State) : s.deliver.fb = s.fb := by
  unfold State.deliver; split <;> rfl
@[simp] theorem State.deliver_fbEpoch (s : State) : s.deliver.fbEpoch = s.fbEpoch := by
  unfold State.deliver; split <;> rfl
@[simp] theorem State.deliver_now (s : State) : s.deliver.now = s.now := by
  unfold State.deliver; split <;> rfl
@[simp] theorem State.deliver_inputs (s : State) : s.deliver.inputs = s.inputs := by
  unfold State.deliver; split <;> rfl
@[simp] theorem State.deliver_rsp (s : State) : s.deliver.rsp = none := by
  unfold State.deliver
  split
  · rfl
  · assumption

theorem State.deliver_eq_of_some (s : State) (r : Response) (h : s.rsp = some r) :
    s.deliver = { s with rsp := none, delivered := s.delivered ++ [r] } := by
  simp [State.deliver, h]

theorem State.deliver_eq_of_none (s : State) (h : s.rsp = none) : s.deliver = s := by
  simp [State.deliver, h]

end Sys2Proof.Machine
end

