-- ==== Sys2Proof/Laws/Ops.lean ====
section
/-! SUPPORT. Sys2Proof/Laws/Ops.lean: one lemma per shared operation saying once everything it does: bytes of the frame buffer
after each write, the frame the encode commands build, how a command ends, and the checksum as a function of the
bytes it reads. -/

namespace Sys2Proof.Machine

/-! ### Big-endian numbers -/

theorem be16_toNat (b0 b1 : Byte) : (be16 b0 b1).toNat = b0.toNat * 256 + b1.toNat := by
  have hb : b1.toNat < 2 ^ 8 := b1.isLt
  have h := (Nat.shiftLeft_add_eq_or_of_lt hb b0.toNat).symm
  rw [← BitVec.toNat_append, Nat.shiftLeft_eq] at h
  exact h

theorem be32_eq (b0 b1 b2 b3 : Byte) : be32 b0 b1 b2 b3 = be16 b0 b1 ++ be16 b2 b3 := by
  simp only [be32, be16]
  exact BitVec.append_assoc

theorem be16_extract (v : Half) : be16 (v.extractLsb' 8 8) (v.extractLsb' 0 8) = v := by
  apply BitVec.eq_of_getLsbD_eq
  intro i hi
  simp only [be16, BitVec.getLsbD_append, BitVec.getLsbD_extractLsb']
  by_cases h : i < 8
  · simp [h]
  · have : i - 8 < 8 := by omega
    simp [h, this, show 8 + (i - 8) = i by omega]

/-- A slice of a slice. -/
theorem extract_extract {w : Nat} (v : BitVec w) (i j m n : Nat) (h : j + n ≤ m) :
    (v.extractLsb' i m).extractLsb' j n = v.extractLsb' (i + j) n := by
  apply BitVec.eq_of_getLsbD_eq
  intro k hk
  have : j + k < m := by omega
  simp [this, hk, Nat.add_assoc]

theorem be32_extract (v : Word) :
    be32 (v.extractLsb' 24 8) (v.extractLsb' 16 8) (v.extractLsb' 8 8) (v.extractLsb' 0 8) = v := by
  have h1 := be16_extract (v.extractLsb' 16 16)
  have h0 := be16_extract (v.extractLsb' 0 16)
  rw [extract_extract _ _ _ _ _ (by omega), extract_extract _ _ _ _ _ (by omega)] at h1 h0
  rw [be32_eq, h1, h0]
  apply BitVec.eq_of_getLsbD_eq
  intro i hi
  simp only [BitVec.getLsbD_append, BitVec.getLsbD_extractLsb']
  by_cases h : i < 16
  · simp [h]
  · have : i - 16 < 16 := by omega
    simp [h, this, show 16 + (i - 16) = i by omega]

/-! ### Bytes of the frame buffer -/

/-- What a byte reads as depends on the written bytes and the reset count only. -/
theorem State.readByte_congr {s t : State} (hfb : t.fb = s.fb) (he : t.fbEpoch = s.fbEpoch) :
    t.readByte = s.readByte := by
  funext a
  simp [State.readByte, hfb, he]

theorem State.readByte_writeByte (s : State) (a : Nat) (b : Byte) (x : Nat) :
    (s.writeByte a b).readByte x = if x = a then b else s.readByte x := by
  unfold State.readByte
  by_cases h : x = a
  · subst h; simp [Memory.get?_put_self]
  · simp [h, Memory.get?_put_of_ne]

theorem State.writeHalf_eq (s : State) (a : Nat) (v : Half) :
    s.writeHalf a v = (s.writeByte a (v.extractLsb' 8 8)).writeByte (a + 1) (v.extractLsb' 0 8) := rfl

theorem State.writeWord_eq (s : State) (a : Nat) (v : Word) :
    s.writeWord a v = (s.writeHalf a (v.extractLsb' 16 16)).writeHalf (a + 2) (v.extractLsb' 0 16) := rfl

theorem State.readByte_writeHalf (s : State) (a : Nat) (v : Half) (x : Nat) :
    (s.writeHalf a v).readByte x =
      if x = a + 1 then v.extractLsb' 0 8 else if x = a then v.extractLsb' 8 8 else s.readByte x := by
  rw [State.writeHalf_eq, State.readByte_writeByte, State.readByte_writeByte]

theorem State.readByte_writeWord (s : State) (a : Nat) (v : Word) (x : Nat) :
    (s.writeWord a v).readByte x =
      if x = a + 3 then v.extractLsb' 0 8 else if x = a + 2 then v.extractLsb' 8 8
      else if x = a + 1 then v.extractLsb' 16 8 else if x = a then v.extractLsb' 24 8 else s.readByte x := by
  rw [State.writeWord_eq, State.readByte_writeHalf, State.readByte_writeHalf]
  repeat rw [extract_extract _ _ _ _ _ (by omega)]

/-- The header `putHeader` writes, byte by byte (R102). -/
theorem State.readByte_putHeader (s : State) (q : Word) (f : Half) (x : Nat) :
    (s.putHeader q f).readByte x =
      if x = 7 then f.extractLsb' 0 8 else if x = 6 then f.extractLsb' 8 8
      else if x = 5 then 0 else if x = 4 then 0
      else if x = 3 then q.extractLsb' 0 8 else if x = 2 then q.extractLsb' 8 8
      else if x = 1 then q.extractLsb' 16 8 else if x = 0 then q.extractLsb' 24 8 else s.readByte x := by
  rw [State.putHeader, State.readByte_writeHalf, State.readByte_writeHalf, State.readByte_writeWord]
  rfl

/-- Sealing writes bytes 4 and 5 only. -/
theorem State.readByte_seal (s : State) (x : Nat) :
    s.seal.readByte x =
      if x = 5 then s.frameChecksum.extractLsb' 0 8 else if x = 4 then s.frameChecksum.extractLsb' 8 8
      else s.readByte x := by
  rw [← State.readByte_writeHalf]
  exact congrFun (State.readByte_congr rfl rfl) x

/-! ### The checksum reads the first `n` bytes and nothing else -/

theorem sumWords_congr {f g : Nat → Byte} (k : Nat) (h : ∀ a, a < 2 * k → f a = g a) :
    sumWords f k = sumWords g k := by
  induction k with
  | zero => rfl
  | succ k ih =>
    rw [sumWords, sumWords, ih fun a ha => h a (by omega), h (2 * k) (by omega), h (2 * k + 1) (by omega)]

theorem cksum_congr {f g : Nat → Byte} (n : Nat) (h : ∀ a, a < n → f a = g a) : cksum f n = cksum g n := by
  have hw := sumWords_congr (f := f) (g := g) (n / 2) fun a ha => h a (by omega)
  unfold cksum
  split
  · next hodd => rw [hw, h (n - 1) (by omega)]
  · exact hw

theorem cksumMasked_congr {f g : Nat → Byte} (n : Nat) (h : ∀ a, a < n → a ≠ 4 → a ≠ 5 → f a = g a) :
    cksumMasked f n = cksumMasked g n := by
  refine cksum_congr n fun a ha => ?_
  unfold maskField
  split
  · rfl
  · exact h a ha (by omega) (by omega)

/-- Sealing does not change what the masked checksum sees. -/
theorem cksumMasked_seal (s : State) (n : Nat) :
    cksumMasked s.seal.readByte n = cksumMasked s.readByte n :=
  cksumMasked_congr n fun a _ h4 h5 => by rw [State.readByte_seal, if_neg h5, if_neg h4]

/-! ### The frame the encode commands build -/

/-- Everything `frame` does to the buffer, `FLEN` and `ACC` (R102, R105 to R107). -/
theorem State.frame_framedAs (s : State) (q : Word) (f : Half) (n : Nat) (hn : n < 65536) :
    FramedAs s (s.frame q f n) q f n := by
  have hread : ∀ x, (s.frame q f n).readByte x = if x = 5 then (s.frame q f n).acc.extractLsb' 0 8
      else if x = 4 then (s.frame q f n).acc.extractLsb' 8 8 else (s.putHeader q f).readByte x :=
    fun x => State.readByte_seal _ x
  have hlen : (s.frame q f n).flen.toNat = 8 + n := by
    rw [State.frame_flen, BitVec.toNat_ofNat]
    exact Nat.mod_eq_of_lt (by omega)
  have hacc : (s.frame q f n).acc = cksumMasked (s.frame q f n).readByte (8 + n) := by
    have h : (s.frame q f n).acc = cksumMasked (s.putHeader q f).readByte (s.frame q f n).flen.toNat := rfl
    rw [h, hlen]
    refine cksumMasked_congr _ fun a _ h4 h5 => ?_
    rw [hread, if_neg h5, if_neg h4]
  refine ⟨?_, ?_, ?_, ?_, ?_, ?_, ?_, ?_, fun a ha => ?_, hlen, hacc⟩
  all_goals rw [hread]; simp only [State.readByte_putHeader]
  all_goals try rfl
  have h : ∀ k, k < 8 → a ≠ k := fun k hk => by omega
  simp [h]

/-- What a frame holds depends on the buffer, `FLEN` and `ACC` only. -/
theorem FramedAs.congr {s t u : State} {q : Word} {f : Half} {n : Nat} (h : FramedAs s t q f n)
    (hfb : u.fb = t.fb) (he : u.fbEpoch = t.fbEpoch) (hl : u.flen = t.flen) (ha : u.acc = t.acc) :
    FramedAs s u q f n := by
  have hr : u.readByte = t.readByte := State.readByte_congr hfb he
  obtain ⟨h0, h1, h2, h3, h4, h5, h6, h7, hp, hflen, hacc⟩ := h
  constructor <;> simp_all

/-- `frame` changes `FB`, `FLEN` and `ACC` and nothing else. -/
theorem State.frame_eq (s : State) (q : Word) (f : Half) (n : Nat) :
    s.frame q f n =
      { s with fb := (s.frame q f n).fb, flen := BitVec.ofNat 17 (8 + n), acc := (s.frame q f n).acc } := by
  apply State.ext <;> simp

/-- `frame` keeps the written bytes in canonical form, and below any bound above the header. -/
theorem State.frame_fb_wf {s : State} (h : s.fb.wf) (q : Word) (f : Half) (n : Nat) : (s.frame q f n).fb.wf :=
  Memory.putHalf_wf (Memory.putHalf_wf (Memory.putHalf_wf (Memory.putWord_wf h _ _) _ _) _ _) _ _

theorem State.frame_fb_lt {s : State} {k : Nat} (h : ∀ c ∈ s.fb, c.1 < k) (hk : 8 ≤ k) (q : Word) (f : Half)
    (n : Nat) : ∀ c ∈ (s.frame q f n).fb, c.1 < k :=
  Memory.putHalf_lt (Memory.putHalf_lt (Memory.putHalf_lt (Memory.putWord_lt h (by omega)) (by omega))
    (by omega)) (by omega)

/-! ### How a command ends -/

theorem respond_next {d : Word} {s t : State} :
    respond d s = .next t ↔ t = { s with rsp := some ⟨.ok, d⟩ } := by
  simp only [respond, Host.Outcome.next.injEq, eq_comm]

theorem raise_next {e : ErrCode} {s t : State} :
    raise e s = .next t ↔ t = { s with errs := s.errs ||| e.bit, rsp := some ⟨.err e, 0⟩ } := by
  simp only [raise, Host.Outcome.next.injEq, eq_comm]

/-- A register write that succeeds changes one of four registers, to the value written. -/
theorem State.writeReg_cases {s t : State} {r : Reg} {v : Word} (h : s.writeReg r v = .ok t) :
    (r = .mss ∧ (1 ≤ v.toNat ∧ v.toNat ≤ s.par.mssMax) ∧ t = { s with mss := v.setWidth 16 }) ∨
    (r = .flen ∧ v.toNat ≤ s.par.fbSize ∧ t = { s with flen := v.setWidth 17 }) ∨
    (r = .seq ∧ v.toNat ≤ s.par.seqMod - 1 ∧ t = { s with seq := v }) ∨
    (r = .tmo ∧ t = { s with tmo := v }) := by
  cases r <;> simp only [State.writeReg] at h <;> (try split at h) <;> cases h <;> simp_all

end Sys2Proof.Machine
end

