-- ==== Sys2Proof/Laws/Exec.lean ====
section
/-! SUPPORT. Sys2Proof/Laws/Exec.lean: everything a command can do, said once: it raises an error, or it answers `OK` and
leaves the state `okState`. -/

namespace Sys2Proof.Machine

/-- The state a command leaves when it answers `OK`, the response apart. -/
def okState (i : Instr) (s : State) : State :=
  match i with
  | .nop | .regrd _ | .fbrd _ | .tmpoll => s
  | .regwr reg value =>
    match Reg.ofNumber? reg with
    | none => s
    | some r =>
      match s.writeReg r value with
      | .ok t => t
      | .error _ => s
  | .fbwr addr byte => s.writeByte addr byte
  | .srst => s.resetRegisters
  | .csclr => { s with acc := 0 }
  | .csaddw word => { s with acc := ocAdd16 s.acc word }
  | .csaddb byte => { s with acc := ocAdd16 s.acc (be16 byte 0) }
  | .csbuf .masked => { s with acc := cksumMasked s.readByte s.flen.toNat }
  | .csbuf .asIs => { s with acc := cksum s.readByte s.flen.toNat }
  | .encdata plen => { s.frame s.seq flagData plen with seq := seqNext s.par s.seq }
  | .encack seq => s.frame seq flagAck 0
  | .encclose => s.frame s.seq flagClose 0
  | .dec => s.decoded
  | .tmarm => { s with deadline := s.now + s.tmo.setWidth 64, armed := true }
  | .tmstop => { s with armed := false }

/-- What a command can do: raise one error, or answer `OK` and leave `okState`. -/
theorem exec_outcome (i : Instr) (s : State) :
    (∃ e, exec i s = raise e s) ∨ ∃ d, exec i s = respond d (okState i s) := by
  cases i with
  | regrd reg =>
    simp only [exec, execRegrd, okState]
    cases Reg.ofNumber? reg with
    | none => exact .inl ⟨_, rfl⟩
    | some r => exact .inr ⟨_, rfl⟩
  | regwr reg value =>
    simp only [exec, execRegwr, okState]
    cases Reg.ofNumber? reg with
    | none => exact .inl ⟨_, rfl⟩
    | some r =>
      cases h : s.writeReg r value with
      | error e => exact .inl ⟨e, by simp only [h]⟩
      | ok t => exact .inr ⟨0, by simp only [h]⟩
  | fbrd addr =>
    simp only [exec, execFbrd]
    split
    · exact .inr ⟨_, rfl⟩
    · exact .inl ⟨_, rfl⟩
  | fbwr addr byte =>
    simp only [exec, execFbwr]
    split
    · exact .inr ⟨_, rfl⟩
    · exact .inl ⟨_, rfl⟩
  | encdata plen =>
    simp only [exec, execEncdata]
    split
    · exact .inl ⟨_, rfl⟩
    · exact .inr ⟨_, rfl⟩
  | dec =>
    simp only [exec, execDec]
    split
    · exact .inl ⟨_, rfl⟩
    · exact .inr ⟨_, rfl⟩
  | csbuf mode => cases mode <;> exact .inr ⟨_, rfl⟩
  | nop | srst | csclr | csaddw _ | csaddb _ | encack _ | encclose | tmarm | tmstop | tmpoll =>
    exact .inr ⟨_, rfl⟩

/-- The inversion of `exec`: if it answers `t`, then `t` is the refused state or `okState` with a response. -/
theorem exec_cases {i : Instr} {s t : State} (h : exec i s = .next t) :
    (∃ e, t = { s with errs := s.errs ||| e.bit, rsp := some ⟨.err e, 0⟩ }) ∨
    ∃ d, t = { okState i s with rsp := some ⟨.ok, d⟩ } := by
  rcases exec_outcome i s with ⟨e, he⟩ | ⟨d, hd⟩
  · exact .inl ⟨e, raise_next.1 (he.symm.trans h)⟩
  · exact .inr ⟨d, respond_next.1 (hd.symm.trans h)⟩

/-- The inversion of `issue`: the word is illegal and is refused, or it is a command and runs. -/
theorem issue_cases {w : CmdWord} {s t : State} (h : issue w s = .next t) :
    (∃ e, t = { s with errs := s.errs ||| e.bit, rsp := some ⟨.err e, 0⟩ }) ∨
    ∃ i d, decode w = .ok i ∧ t = { okState i s with rsp := some ⟨.ok, d⟩ } := by
  unfold issue at h
  split at h
  · next i hi => exact (exec_cases h).imp_right fun ⟨d, hd⟩ => ⟨i, d, hi, hd⟩
  · exact .inl ⟨_, raise_next.1 h⟩

end Sys2Proof.Machine
end

