-- ==== Sys2Proof/Tests/Slice0.lean ====
section
/-! SUPPORT. Sys2Proof/Tests/Slice0.lean: the model's own tests. Expected results are the words and vectors of
spec/95_test_vectors.md (cited `V-...`) and the opcode map of spec/30_encoding.md R63. After them, for every statement that has
hypotheses, a witness that meets them. -/

namespace Sys2Proof.Tests

open Sys2Proof.Machine

/-- The next state of an outcome. -/
def after : Host.Outcome State Fault Refusal → Option State
  | .next t => some t
  | .fault _ => none
  | .refused _ => none

/-- The response an outcome presents. -/
def reply (o : Host.Outcome State Fault Refusal) : Option Response := (after o).bind State.rsp

/-- The first `n` bytes of `FB` after an outcome. -/
def bytes (n : Nat) (o : Host.Outcome State Fault Refusal) : Option (List Byte) :=
  (after o).map fun t => (List.range n).map t.readByte

/-- The reset state with a frame loaded (`FLEN` its length), as `LOADFRAME` leaves it. -/
def holding (frame : List Byte) : State :=
  { State.reset with
    flen := BitVec.ofNat 17 frame.length
    fb := frame.zipIdx.map fun p => (p.2, p.1) }

/-- `OK` with data. -/
def ok (d : Word) : Option Response := some ⟨.ok, d⟩

/-- An error response. -/
def refused (e : ErrCode) : Option Response := some ⟨.err e, 0⟩

/-! ### WellFormed refuses an operand too large for its field (R61, R66) -/

theorem test_wellFormed_refuses_regrd : (Instr.regrd 65536).wellFormed = false := by decide
theorem test_wellFormed_refuses_regwr : (Instr.regwr 65536 0).wellFormed = false := by decide
theorem test_wellFormed_refuses_fbrd : (Instr.fbrd 65536).wellFormed = false := by decide
theorem test_wellFormed_refuses_fbwr : (Instr.fbwr 65536 0).wellFormed = false := by decide
theorem test_wellFormed_refuses_encdata : (Instr.encdata 65536).wellFormed = false := by decide
theorem test_wellFormed_takes_absent_register : (Instr.regrd 65535).wellFormed = true := by decide

/-! ### Every constructor's decoding, by a word of the spec -/

theorem test_decode_nop : decode 0x0000000000000000 = .ok .nop := by decide
theorem test_decode_regrd : decode 0x0100000B00000000 = .ok (.regrd 11) := by decide
theorem test_decode_regwr : decode 0x020000040000FFFE = .ok (.regwr 4 0xFFFE) := by decide
theorem test_decode_fbrd : decode 0x0300040700000000 = .ok (.fbrd 1031) := by decide
theorem test_decode_fbwr : decode 0x04000407000000AB = .ok (.fbwr 1031 0xAB) := by decide
theorem test_decode_srst : decode 0x0500000000000000 = .ok .srst := by decide
theorem test_decode_csclr : decode 0x1000000000000000 = .ok .csclr := by decide
theorem test_decode_csaddw : decode 0x1100000000006162 = .ok (.csaddw 0x6162) := by decide
theorem test_decode_csaddb : decode 0x1200000000000063 = .ok (.csaddb 0x63) := by decide
theorem test_decode_csbuf_masked : decode 0x1300000000000001 = .ok (.csbuf .masked) := by decide
theorem test_decode_csbuf_asIs : decode 0x1300000000000000 = .ok (.csbuf .asIs) := by decide
theorem test_decode_encdata : decode 0x2000000300000000 = .ok (.encdata 3) := by decide
theorem test_decode_encack : decode 0x2100000012345678 = .ok (.encack 0x12345678) := by decide
theorem test_decode_encclose : decode 0x2200000000000000 = .ok .encclose := by decide
theorem test_decode_dec : decode 0x2300000000000000 = .ok .dec := by decide
theorem test_decode_tmarm : decode 0x3000000000000000 = .ok .tmarm := by decide
theorem test_decode_tmstop : decode 0x3100000000000000 = .ok .tmstop := by decide
theorem test_decode_tmpoll : decode 0x3200000000000000 = .ok .tmpoll := by decide

/-- V-X1 to V-X8, V-X11, and the illegal forms of section 2.1; the reason named is the model's (log entry 15). -/
theorem test_decode_refuses_illegal_words :
    decode 0x0600000000000000 = .error .unknownOpcode ∧
    decode 0xFF00000000000000 = .error .unknownOpcode ∧
    decode 0x0001000000000000 = .error .reservedNotZero ∧
    decode 0x3000000100000000 = .error .operandBitNotZero ∧
    decode 0x0400000800000100 = .error .operandBitNotZero ∧
    decode 0x0100000200000001 = .error .operandBitNotZero ∧
    decode 0x2000000300000001 = .error .operandBitNotZero ∧
    decode 0x2100000100000000 = .error .operandBitNotZero ∧
    decode 0x0601FFFFFFFFFFFF = .error .unknownOpcode ∧
    decode 0x1100000000010000 = .error .operandBitNotZero ∧
    decode 0x1200000000000100 = .error .operandBitNotZero ∧
    decode 0x1300000000000002 = .error .operandBitNotZero ∧
    decode 0x1000000100000000 = .error .operandBitNotZero := by decide

theorem test_decodeTableWord_encack : decodeTableWord 64 0x2100000000000005 = some (.encack 5) := by decide
theorem test_encode_fbwr : encode (.fbwr 10 0x63) = 0x0400000A00000063 := by decide

/-! ### Access and control (section 2.4) -/

/-- V-A1. -/
theorem test_nop : reply (issue 0x0000000000000000 State.reset) = ok 0 := by decide
/-- V-A3, V-A4. -/
theorem test_regrd : reply (issue 0x0100000200000000 State.reset) = ok 0x400 ∧
    reply (issue 0x0100000B00000000 State.reset) = ok 0x3E8 := by decide
/-- V-A2, V-A16. -/
theorem test_regrd_id_and_absent : reply (issue 0x0100000000000000 State.reset) = ok 0x47424E01 ∧
    reply (issue 0x0100000F00000000 State.reset) = refused .addr := by decide
/-- V-A7 to V-A12. -/
theorem test_regwr_bounds :
    (after (issue 0x0200000300000408 State.reset)).map (·.flen) = some 1032 ∧
    reply (issue 0x0200000300000409 State.reset) = refused .value ∧
    (after (issue 0x020000040000FFFE State.reset)).map (·.seq) = some 0xFFFE ∧
    reply (issue 0x020000040000FFFF State.reset) = refused .value ∧
    reply (issue 0x0200000200000000 State.reset) = refused .value ∧
    reply (issue 0x0200000200000401 State.reset) = refused .value := by decide
/-- V-X9, V-X10: address before read-only before value; one bit of `ERRS`. -/
theorem test_regwr_priority :
    reply (issue 0x0200001400000005 State.reset) = refused .addr ∧
    (after (issue 0x0200000500010000 State.reset)).map (·.errs) = some 0x08 := by decide
/-- V-A17, V-A18. -/
theorem test_fbrd :
    reply (issue 0x0300040700000000 { State.reset with fb := [(1031, 0xAB)] }) = ok 0xAB ∧
    reply (issue 0x0300040800000000 State.reset) = refused .addr := by decide
/-- V-A17, V-A19. -/
theorem test_fbwr :
    (after (issue 0x04000407000000AB State.reset)).map (·.readByte 1031) = some 0xAB ∧
    reply (issue 0x0400040800000000 State.reset) = refused .addr := by decide
/-- V-A20. -/
theorem test_srst :
    (after (issue 0x0500000000000000
      { State.reset with seq := 7, armed := true, errs := 0x20, fb := [(8, 0x61)] })).map
        (fun t => (t.seq, t.armed, t.errs, t.mss, t.tmo, t.readByte 8)) =
      some (0, false, 0, 1024, 1000, 0x61) := by decide

/-! ### The checksum unit (section 2.1) -/

theorem test_csclr : (after (issue 0x1000000000000000 { State.reset with acc := 0x19B8 })).map (·.acc) = some 0 := by
  decide
/-- V-C5, V-C11. -/
theorem test_csaddw :
    reply (issue 0x1100000000000001 { State.reset with acc := 0xFFFF }) = ok 1 ∧
    reply (issue 0x1100000000006162 { State.reset with acc := 0x5555 }) = ok 0xB6B7 := by decide
/-- V-C12, and `CSADDB 0xFF` from `0x5555`. -/
theorem test_csaddb :
    reply (issue 0x1200000000000063 { State.reset with acc := 0xB6B7 }) = ok 0x19B8 ∧
    reply (issue 0x12000000000000FF { State.reset with acc := 0x5555 }) = ok 0x5456 := by decide
/-- V-C20. -/
theorem test_csbuf_odd :
    reply (issue 0x1300000000000001 (holding [0, 0, 0, 0, 0x19, 0xB8, 0x55, 0x55, 0x61, 0x62, 0x63])) = ok 0x19B8 ∧
    reply (issue 0x1300000000000000 (holding [0, 0, 0, 0, 0x19, 0xB8, 0x55, 0x55, 0x61, 0x62, 0x63])) = ok 0x3370 := by
  decide
/-- V-C25: byte 4 is the odd byte. -/
theorem test_csbuf_masks_the_odd_byte :
    reply (issue 0x1300000000000001 (holding [0, 0, 0, 0, 0x19])) = ok 0 ∧
    reply (issue 0x1300000000000000 (holding [0, 0, 0, 0, 0x19])) = ok 0x1900 := by decide

/-! ### The codec unit (section 2.2) -/

/-- V-E1. -/
theorem test_encdata :
    bytes 11 (issue 0x2000000300000000 { State.reset with fb := [(8, 0x61), (9, 0x62), (10, 0x63)] }) =
      some [0, 0, 0, 0, 0x19, 0xB8, 0x55, 0x55, 0x61, 0x62, 0x63] := by decide
/-- V-E7: the wrap. -/
theorem test_encdata_wraps :
    (after (issue 0x2000000100000000 { State.reset with seq := 65534, fb := [(8, 0)] })).map
      (fun t => (t.seq, t.acc, t.flen, t.rsp)) = some (0, 0x5554, 9, ok 65534) := by decide
/-- V-E10. -/
theorem test_encack :
    bytes 8 (issue 0x2100000012345678 State.reset) = some [0x12, 0x34, 0x56, 0x78, 0x13, 0x57, 0xAA, 0xAA] ∧
    reply (issue 0x2100000012345678 State.reset) = ok 0x1357 := by decide
/-- V-E12. -/
theorem test_encclose :
    bytes 8 (issue 0x2200000000000000 { State.reset with seq := 10 }) = some [0, 0, 0, 10, 0, 10, 0xFF, 0xFF] ∧
    reply (issue 0x2200000000000000 { State.reset with seq := 10 }) = ok 10 := by decide
/-- V-D2. -/
theorem test_dec_corrupted :
    (after (issue 0x2300000000000000 (holding [0, 0, 0, 0, 0x19, 0xB8, 0x55, 0x55, 0x61, 0x62, 0x64]))).map
      (fun t => (t.rsp, t.acc, t.rxcsum, t.rxplen)) = some (ok 0x0A, 0x1AB8, 0x19B8, 3) := by decide
/-- V-D8, V-D11, V-D17. -/
theorem test_dec_lengths :
    reply (issue 0x2300000000000000 (holding [0, 0, 0, 5, 0xAB, 0xAF, 0xAA, 0xAA, 1])) = ok 0x05 ∧
    reply (issue 0x2300000000000000
      { holding [0, 0, 0, 0, 0x19, 0xB8, 0x55, 0x55, 0x61, 0x62, 0x63] with mss := 2 }) = ok 0x03 ∧
    reply (issue 0x2300000000000000 { State.reset with flen := 7 }) = refused .len := by decide

/-! ### The timer unit (section 2.3) -/

/-- V-T12, V-T16. -/
theorem test_tmarm :
    (after (issue 0x3000000000000000 { State.reset with now := 0xFFFFFFFFFFFFFF9C })).map
      (fun t => (t.rsp, t.armed, t.deadline)) = some (ok 900, true, 900) ∧
    (after (issue 0x3000000000000000 { State.reset with tmo := 0xFFFFFFFF, now := 1000 })).map
      (fun t => (t.rsp, t.armed, t.deadline)) = some (ok 0x3E7, true, 0x1000003E7) := by decide
/-- V-T8. -/
theorem test_tmstop :
    (after (issue 0x3100000000000000 { State.reset with armed := true, deadline := 6000 })).map
      (fun t => (t.armed, t.deadline)) = some (false, 6000) := by decide
/-- V-T13 to V-T15. -/
theorem test_tmpoll_across_the_wrap :
    reply (issue 0x3200000000000000 { State.reset with armed := true, deadline := 900, now := 0xFFFFFFFFFFFFFFFF }) =
      ok 2 ∧
    reply (issue 0x3200000000000000 { State.reset with armed := true, deadline := 900, now := 899 }) = ok 2 ∧
    reply (issue 0x3200000000000000 { State.reset with armed := true, deadline := 900, now := 900 }) = ok 3 := by
  decide
/-- V-T9. -/
theorem test_tmpoll_idle :
    reply (issue 0x3200000000000000 { State.reset with deadline := 6000, now := 9999 }) = ok 0 := by decide

/-! ### The step and the assembler -/

/-- V-A3 through the command port. -/
theorem test_step_from_reset : reply (step (State.reset.withFetchWord 64 0x0100000200000000)) = ok 0x400 := by decide

/-- `FBWR 0x8, 97 ; x`. -/
theorem test_assemble_fbwr :
    (match assembleLine ['F', 'B', 'W', 'R', ' ', '0', 'x', '8', ',', ' ', '9', '7', ' ', ';', ' ', 'x'] with
      | .ok is => is.map encode
      | .error _ => []) = [0x0400000800000061] := by decide

/-- `LOADFRAME 00 19` (program P2's form, R67). -/
theorem test_assemble_loadframe :
    (match assembleLine ['L', 'O', 'A', 'D', 'F', 'R', 'A', 'M', 'E', ' ', '0', '0', ' ', '1', '9'] with
      | .ok is => is.map encode
      | .error _ => []) = [0x0400000000000000, 0x0400000100000019, 0x0200000300000002] := by decide

/-! ### Witnesses: concrete operands and states that meet each statement's hypotheses -/

/-- A state some way into a run: V-E1 framed, timer armed, one error on record. -/
def busy : State :=
  { holding [0, 0, 0, 0, 0x19, 0xB8, 0x55, 0x55, 0x61, 0x62, 0x63] with
    seq := 1, acc := 0x19B8, errs := 0x20, armed := true, deadline := 6000 }

/-- `busy` meets the invariant. -/
theorem test_busy_meets_the_invariant : busy.Inv where
  par := by decide
  errs := by decide
  mss := by decide
  flen := by decide
  seq := by decide
  rxplen := by decide
  kind := by decide
  lenOk := by decide
  valid := by decide
  fb := by decide
  fbRange := by decide
  rsp := fun _ _ h => nomatch h
  rspErrs := fun _ _ h => nomatch h

/-- DecodeOfEncodeIsTheCommand: the largest operands. -/
theorem test_witness_decodeOfEncode : (Instr.regwr 65535 0xFFFFFFFF).wellFormed = true := by decide
/-- EncodeOfDecodeIsTheWord. -/
theorem test_witness_encodeOfDecode : decode 0x04000407000000AB = .ok (.fbwr 1031 0xAB) := by decide
/-- WordsDecodeByTheOneRowTheyMatch: a word that matches a row, and one that matches none. -/
theorem test_witness_rows :
    (0x04000407000000AB : CmdWord) &&& Mnemonic.fbwr.mask = Mnemonic.fbwr.pattern ∧
    ∀ m ∈ Mnemonic.all, (0x04000407000001AB : CmdWord) &&& m.mask ≠ m.pattern := by decide
/-- IllegalWordsRaiseErrIllegal: each clause, the opcode ranges at both ends. -/
theorem test_witness_illegal_words :
    decode 0x0600000000000000 = .error .unknownOpcode ∧
    ((0x0600000000000000 : CmdWord).extractLsb' 56 8).toNat = 0x06 ∧
    ((0x0F00000000000000 : CmdWord).extractLsb' 56 8).toNat = 0x0F ∧
    ((0x1400000000000000 : CmdWord).extractLsb' 56 8).toNat = 0x14 ∧
    ((0x1F00000000000000 : CmdWord).extractLsb' 56 8).toNat = 0x1F ∧
    ((0x2400000000000000 : CmdWord).extractLsb' 56 8).toNat = 0x24 ∧
    ((0x2F00000000000000 : CmdWord).extractLsb' 56 8).toNat = 0x2F ∧
    ((0x3300000000000000 : CmdWord).extractLsb' 56 8).toNat = 0x33 ∧
    ((0xFF00000000000000 : CmdWord).extractLsb' 56 8).toNat = 0xFF ∧
    (0x0001000000000000 : CmdWord).extractLsb' 48 8 ≠ 0 ∧
    (0x1300000000000002 : CmdWord).extractLsb' 56 8 = Mnemonic.csbuf.pattern.extractLsb' 56 8 ∧
    (0x1300000000000002 : CmdWord).extractLsb' 48 8 = 0 ∧
    (0x1300000000000002 : CmdWord) &&& Mnemonic.csbuf.mask &&& 0x0000FFFFFFFFFFFF ≠ 0 := by decide
/-- StepRunsTheDecodedCommand: a legal and an illegal word at the port, and a table word. -/
theorem test_witness_step :
    (∃ s : State, s.inputs = [⟨false, some 0x2300000000000000, false, 7⟩] ∧ s.rsp = none ∧
      decode 0x2300000000000000 = .ok .dec) ∧
    (∃ s : State, s.inputs = [⟨false, some 0x0600000000000000, false, 7⟩] ∧ s.rsp = none ∧
      decode 0x0600000000000000 = .error .unknownOpcode) ∧
    decode (BitVec.ofNat 64 (0x2300000000000000 % 2 ^ 64)) = .ok .dec :=
  ⟨⟨{ busy with inputs := [⟨false, some 0x2300000000000000, false, 7⟩] }, rfl, rfl, by decide⟩,
    ⟨{ busy with inputs := [⟨false, some 0x0600000000000000, false, 7⟩] }, rfl, rfl, by decide⟩, by decide⟩
/-- PresentedResponseHoldsTheNextCommand, OutputPortsShowReadinessAndResponse: a response held, then taken. -/
theorem test_witness_presented :
    reply (step { busy with rsp := ok 3, inputs := [⟨false, some 0, false, 7⟩] }) = ok 3 ∧
    (after (step { busy with rsp := ok 3, inputs := [⟨false, some 0, true, 7⟩] })).map
      (fun t => (t.rsp, t.delivered)) = some (none, [⟨.ok, 3⟩]) ∧
    ({ busy with rsp := ok 3 }.outputs ⟨false, none, false, 7⟩).rsp = some 0x0000000003#40 ∧
    ({ busy with rsp := refused .len }.outputs ⟨false, none, false, 7⟩).rsp = some 0x0500000000#40 ∧
    (busy.outputs ⟨false, none, false, 7⟩).cmdReady = true ∧
    (busy.outputs ⟨true, none, false, 7⟩).cmdReady = false := by decide
/-- ResetInputGivesTheResetState: `rst` high while a response is presented and a command is offered. -/
theorem test_witness_reset_input :
    (after (step { busy with rsp := ok 3, inputs := [⟨true, some 0, true, 7⟩] })).map
      (fun t => (t.rsp, t.delivered, t.errs, t.seq)) = some (none, [], 0, 0) := by decide
/-- ResetStateHoldsTheResetValues, and every `Params.Legal` premise: the ends of the ranges of R6. -/
theorem test_witness_legal_parameters :
    Params.vectors.Legal ∧ Params.Legal ⟨1, 2, 0⟩ ∧ Params.Legal ⟨65528, 0xFFFFFFFF, 0xFFFFFFFF⟩ := by decide
/-- RegisterReadsAnswerTheMap: the last register, and the first number with none. -/
theorem test_witness_regrd :
    reply (exec (.regrd 14) busy) = ok 0 ∧ reply (exec (.regrd 13) busy) = ok 6000 ∧
    reply (exec (.regrd 15) busy) = refused .addr := by decide
/-- RegisterWritesCheckThenWriteOne: each clause at its boundary. -/
theorem test_witness_regwr :
    busy.par.Legal ∧
    reply (exec (.regwr 15 0) busy) = refused .addr ∧ reply (exec (.regwr 14 0) busy) = refused .ro ∧
    reply (exec (.regwr 2 0) busy) = refused .value ∧ reply (exec (.regwr 2 1025) busy) = refused .value ∧
    reply (exec (.regwr 3 1033) busy) = refused .value ∧ reply (exec (.regwr 4 0xFFFF) busy) = refused .value ∧
    reply (exec (.regwr 2 1) busy) = ok 0 ∧ reply (exec (.regwr 2 1024) busy) = ok 0 ∧
    reply (exec (.regwr 3 1032) busy) = ok 0 ∧ reply (exec (.regwr 4 0xFFFE) busy) = ok 0 ∧
    reply (exec (.regwr 11 0xFFFFFFFF) busy) = ok 0 := by decide
/-- BufferReadAnswersTheByte, BufferWriteWritesOneByte: the last byte, and the first address beyond. -/
theorem test_witness_buffer : 1031 < busy.par.mssMax + 8 ∧ busy.par.mssMax + 8 ≤ 1032 := by decide
/-- BytesHoldUntilACommandWritesThem: a payload byte, through a write to another byte, an encode, and an illegal word. -/
theorem test_witness_bytes_hold :
    ∀ c ∈ [((0x0400000900000048 : CmdWord), (7 : Clock)), (0x2200000000000000, 7), (0x0600000000000000, 8)],
      ∀ i, decode c.1 = .ok i → (∀ b, i ≠ .fbwr 8 b) ∧ (framesDatagram i = true → 8 ≤ 8) := by
  intro c hc i h
  refine ⟨fun b hb => ?_, fun _ => Nat.le_refl 8⟩
  subst hb
  simp only [List.mem_cons, List.not_mem_nil, or_false] at hc
  rcases hc with rfl | rfl | rfl
  · rw [show decode 0x0400000900000048 = .ok (.fbwr 9 0x48) by decide] at h
    cases h
  · rw [show decode 0x2200000000000000 = .ok .encclose by decide] at h
    cases h
  · rw [show decode 0x0600000000000000 = .error .unknownOpcode by decide] at h
    cases h
/-- OcAddIsACommutativeMonoidWithTwoZeros: V-C9. -/
theorem test_witness_ocAdd : (0x1234 : Half) ≠ 0 ∧ ocAdd16 0x1234 0xFFFF = 0x1234 := by decide
/-- TrailingZeroBytesDoNotCount: V-C21. -/
theorem test_witness_trailing_zeros :
    ∀ a, 11 ≤ a → a < 11 + 1 → (fun k => if k < 11 then (0x61 : Byte) else 0) a = 0 := by
  intro a h1 _
  exact if_neg (by omega)
/-- FrameReadersSeeOnlyTheFrame, NoCommandTouchesBytesBeyondTheBuffer: the same bytes in a buffer with one more
byte written, above the frame or above the buffer. -/
theorem test_witness_same_bytes (k : Nat) (hk : 11 ≤ k) :
    SameBytesBelow 11 busy { busy with fb := busy.fb.put k 0xEE, fbEpoch := busy.fbEpoch } := by
  intro a ha
  unfold State.readByte
  simp only [Memory.get?_put_of_ne busy.fb 0xEE (show a ≠ k by omega)]
theorem test_witness_same_bytes_below_the_buffer :
    SameBytesBelow (busy.par.mssMax + 8) busy
      { busy with fb := busy.fb.put 1032 0xEE, fbEpoch := busy.fbEpoch } := by
  intro a ha
  have h : a ≠ 1032 := by
    have : busy.par.mssMax + 8 = 1032 := rfl
    omega
  unfold State.readByte
  simp only [Memory.get?_put_of_ne busy.fb 0xEE h]
/-- StreamingEqualsBufferChecksum: the words of V-C20 in reverse order. -/
theorem test_witness_streaming :
    List.Perm ([0x6162, 0x5555, 0, 0, 0] : List Half)
      ((List.range (11 / 2)).map fun k => be16 ([0, 0, 0, 0, 0, 0, 0x55, 0x55, 0x61, 0x62, 0x63].getD (2 * k) 0)
        ([0, 0, 0, 0, 0, 0, 0x55, 0x55, 0x61, 0x62, 0x63].getD (2 * k + 1) 0)) := by decide
/-- EmbeddedChecksumVerifies, EncodedFramesDecodeValid, EncdataFramesAndAdvancesSeq: an encode command of each kind
succeeds, at the largest payload length too; one byte more is refused. -/
theorem test_witness_encode :
    6 ≤ busy.flen.toNat ∧ framesDatagram (.encdata 3) = true ∧
    reply (exec (.encdata 3) busy) = ok 1 ∧ reply (exec (.encack 9) busy) = ok 0xAAB3 ∧
    reply (exec .encclose busy) = ok 1 ∧ 3 ≤ busy.mss.toNat ∧
    reply (exec (.encdata 4) { busy with mss := 4, fb := busy.fb.put 11 0 }) = ok 1 ∧
    reply (exec (.encdata 5) { busy with mss := 4 }) = refused .len := by decide
/-- EncodedFramesDecodeValid: a receiver with the sender's bytes. -/
theorem test_witness_receiver (t : State) :
    ({ State.reset with flen := t.flen, fb := t.fb, fbEpoch := t.fbEpoch } : State).flen = t.flen ∧
    SameBytesBelow t.flen.toNat t { State.reset with flen := t.flen, fb := t.fb, fbEpoch := t.fbEpoch } :=
  ⟨rfl, fun _ _ => rfl⟩
/-- SequenceSuccessorWrapsBelowTheSentinel: the last sequence number and the one before. -/
theorem test_witness_seqNext :
    (0xFFFE : Word).toNat ≤ Params.vectors.seqMod - 1 ∧ seqNext Params.vectors 0xFFFE = 0 ∧
    seqNext Params.vectors 0xFFFD = 0xFFFE := by decide
/-- DecParsesAndJudgesTheFrame: both clauses, at 8 and at 7. -/
theorem test_witness_dec :
    (8 : BitVec 17).toNat ≤ busy.par.mssMax + 8 ∧
    reply (exec .dec (holding [0, 0, 0, 0, 0xAA, 0xAA, 0xAA, 0xAA])) = ok 0x1D ∧
    reply (exec .dec { busy with flen := 7 }) = refused .len := by decide
/-- PollAfterArmExpiresAtTheTimeout: a change of `TMO` after the arm (V-T19); the clock's promise at the largest
advance, through the wrap. -/
theorem test_witness_poll :
    (decode 0x0200000B00000001 ≠ .ok .tmarm ∧ decode 0x0200000B00000001 ≠ .ok .tmstop ∧
      decode 0x0200000B00000001 ≠ .ok .srst) ∧
    ClockPromise 0xFFFFFFFFFFFFFF9C 899 999 ∧ ClockPromise 1 0x8000000000000000 0x7FFFFFFFFFFFFFFF ∧
    State.reset.armed = false := by
  refine ⟨by decide, ⟨by decide, by decide⟩, ⟨by decide, by decide⟩, by decide⟩
/-- RefusedCommandsChangeOnlyTheirErrorBit, CommandAfterRefusalRunsAsAfterNop: a refusal, then a command, then a read
of `ERRS`, and the same after `NOP`. -/
theorem test_witness_refusal :
    reply (issue 0x0100000F00000000 busy) = refused .addr ∧ reply (issue 0 busy) = ok 0 ∧
    ((after (issue 0x0100000F00000000 busy)).map fun t => reply (issue 0x2200000000000000 t)) = some (ok 1) ∧
    ((after (issue 0x0100000F00000000 busy)).map fun t => reply (issue 0x0100000100000000 t)) = some (ok 0x24) ∧
    ((after (issue 0 busy)).map fun t => reply (issue 0x0100000100000000 t)) = some (ok 0x20) := by decide
/-- ErrsIsAStickyRecordOfRefusals: a set bit, and a list without `SRST` that leaves `ERRS = 0`. -/
theorem test_witness_errs :
    busy.errs.getLsbD 5 = true ∧ busy.errs.getLsbD 0 = false ∧ State.reset.rsp = none ∧
    decode 0x2200000000000000 ≠ .ok .srst ∧
    (after (runCommands [(0x2200000000000000, 1), (0x3000000000000000, 2)] State.reset)).map
      (fun t => (t.errs, t.delivered.length)) = some (0, 2) := by decide
/-- RegistersChangeOnlyByTheirCommands, StepKeepsTheInvariant (with `test_busy_meets_the_invariant`): steps that answer a
next state and change registers. -/
theorem test_witness_step_changes :
    ((after (exec .dec busy)).map fun t => (t.rxstat, t.rxplen)) = some (0x1B, 3) ∧
    (after (step (busy.withFetchWord 64 0x2000000200000000))).map (fun t => (t.seq, t.flen)) = some (2, 10) := by
  decide
/-- PortsRunACommandListInOrder: two commands at the port, and one input left over. -/
theorem test_witness_ports :
    (after (Host.Core.run Sys2Proof.core 4
      { busy with inputs := hostInputs [(0x2200000000000000, 1), (0x3000000000000000, 2)] ++
        [⟨false, none, false, 3⟩] })).map (fun t => (t.delivered, t.inputs)) =
      some ([⟨.ok, 1⟩, ⟨.ok, 1002⟩], [⟨false, none, false, 3⟩]) := by decide
/-- LoadframeLoadsTheFrame: V-C22's frame; a frame as long as the buffer is admitted. -/
theorem test_witness_loadframe :
    ([0, 0, 0, 0, 0x55, 0x55, 0x55, 0x55] : List Byte).length ≤ State.reset.par.mssMax + 8 ∧
    (List.replicate 1032 (0 : Byte)).length ≤ State.reset.par.mssMax + 8 := by
  rw [List.length_replicate]
  decide

end Sys2Proof.Tests
end

/-! Proofs of the family 00_scope: what a step is when a command word is presented (O6), the invariant right after
reset (O47) and along every step (O48). -/

namespace Sys2Proof.Machine

/-! ### What a step is -/

theorem step_of_inputs_nil {s : State} (hin : s.inputs = []) : step s = .next s := by
  simp [step, portStep, hin]

theorem step_of_inputs_cons {s : State} {p : PortIn} {ps : List PortIn} (hin : s.inputs = p :: ps) :
    step s = serve p { s with inputs := ps, now := p.now } := by
  simp [step, portStep, hin]

theorem serve_command {p : PortIn} {s : State} {w : CmdWord} (hrst : p.rst = false) (hrsp : s.rsp = none)
    (hcmd : p.cmd = some w) : serve p s = issue w s := by
  simp [serve, hrst, hrsp, hcmd]

theorem issue_of_decode_ok {w : CmdWord} {i : Instr} (h : decode w = .ok i) (s : State) :
    issue w s = exec i s := by
  simp [issue, h]

theorem issue_of_decode_error {w : CmdWord} {e : IllegalWord} (h : decode w = .error e) (s : State) :
    issue w s = raise .illegal s := by
  simp [issue, h]

/-- R8, R31: a command word presented with reset low and no response outstanding is issued in that step. -/
theorem step_of_command {s : State} {p : PortIn} {ps : List PortIn} {w : CmdWord} (hin : s.inputs = p :: ps)
    (hrst : p.rst = false) (hcmd : p.cmd = some w) (hrsp : s.rsp = none) :
    step s = issue w { s with inputs := ps, now := p.now } :=
  (step_of_inputs_cons hin).trans (serve_command hrst hrsp hcmd)

theorem step_withFetchWord (s : State) (nbits w : Nat) :
    step (s.withFetchWord nbits w) = issue (tableWord nbits w) { s with rsp := none } :=
  step_of_command (s := s.withFetchWord nbits w) rfl rfl rfl rfl

/-- Settles O6: the word presented is issued, and issuing it is the decoder's verdict followed by `exec` or `raise`. -/
theorem stepRunsTheDecodedCommand : Obligations.StepRunsTheDecodedCommand := by
  refine ⟨fun s p ps w hin hrst hcmd hrsp => ?_, fun s nbits w i hi => ?_⟩
  · rw [step_of_command hin hrst hcmd hrsp]
    exact ⟨fun _ hi => issue_of_decode_ok hi _, fun _ he => issue_of_decode_error he _⟩
  · rw [step_withFetchWord]
    exact issue_of_decode_ok hi _

/-! ### The invariant right after reset -/

theorem mssReset_toNat {p : Params} (hp : p.Legal) : (BitVec.ofNat 16 p.mssMax).toNat = p.mssMax := by
  obtain ⟨⟨-, hle⟩, -⟩ := hp
  rw [BitVec.toNat_ofNat]
  exact Nat.mod_eq_of_lt (by omega)

theorem resetWith_inv {p : Params} (hp : p.Legal) (epoch : Nat) : (State.resetWith p epoch).Inv where
  par := hp
  errs := BitVec.getLsbD_zero
  mss := by
    show 1 ≤ (BitVec.ofNat 16 p.mssMax).toNat ∧ (BitVec.ofNat 16 p.mssMax).toNat ≤ p.mssMax
    rw [mssReset_toNat hp]
    exact ⟨hp.1.1, le_rfl⟩
  flen := Nat.zero_le _
  seq := Nat.zero_le _
  rxplen := Nat.zero_le _
  kind := show (0 : BitVec 5).extractLsb' 1 2 = (kindOf 0).code by decide
  lenOk := show (0 : BitVec 5).getLsbD 3 = true → kindOf 0 ≠ .invalid by decide
  valid := show (0 : BitVec 5).getLsbD 4 = ((0 : BitVec 5).getLsbD 0 && (0 : BitVec 5).getLsbD 3) by decide
  fb := .nil
  fbRange := nofun
  rsp := nofun
  rspErrs := nofun

/-- Settles O47: the reset values are legal for all legal parameters, those of the test vectors among them. -/
theorem resetMeetsTheInvariant : Obligations.ResetMeetsTheInvariant :=
  ⟨fun _ e hp => resetWith_inv hp e, resetWith_inv (by decide) 0⟩

/-! ### What keeps the invariant: the ports, the ends of a command -/

theorem State.Inv.hardReset {s : State} (h : s.Inv) : s.hardReset.Inv :=
  { resetWith_inv h.par 0 with }

/-- Sampling the inputs touches nothing the invariant speaks of. -/
theorem State.Inv.sample {s : State} (h : s.Inv) (ps : List PortIn) (t : Clock) :
    State.Inv { s with inputs := ps, now := t } :=
  { h with }

theorem State.Inv.deliver {s : State} (h : s.Inv) : s.deliver.Inv := by
  cases hr : s.rsp with
  | none => rwa [State.deliver_eq_of_none s hr]
  | some r =>
    rw [State.deliver_eq_of_some s r hr]
    exact { h with rsp := nofun, rspErrs := nofun }

theorem ErrCode.bit_getLsbD_zero (e : ErrCode) : e.bit.getLsbD 0 = false := by
  cases e <;> rfl

theorem ErrCode.bit_getLsbD_code (e : ErrCode) : e.bit.getLsbD e.code = true := by
  cases e <;> rfl

/-- A refusal keeps the invariant: it sets the bit of the error it reports, which is not bit 0 (R26, R172). -/
theorem State.Inv.raise {s t : State} {e : ErrCode} (h : s.Inv) (ht : raise e s = .next t) : t.Inv := by
  obtain rfl := raise_next.1 ht
  exact { h with
    errs := by rw [BitVec.getLsbD_or, h.errs, e.bit_getLsbD_zero]; rfl
    rsp := by rintro _ _ ⟨⟩; rfl
    rspErrs := by
      rintro _ _ ⟨⟩
      rw [BitVec.getLsbD_or, e.bit_getLsbD_code, Bool.or_true] }

/-- An `OK` response replaces the one presented, so the clauses on error responses hold. -/
theorem State.Inv.answered {s : State} (h : s.Inv) (d : Word) : State.Inv { s with rsp := some ⟨.ok, d⟩ } :=
  { h with rsp := nofun, rspErrs := nofun }

/-! ### What keeps the invariant: the updates commands make -/

/-- `SRST` clears `ERRS`, so the invariant holds only once its own response has replaced an earlier one. -/
theorem State.Inv.resetRegisters_answered {s : State} (h : s.Inv) (d : Word) :
    State.Inv { s.resetRegisters with rsp := some ⟨.ok, d⟩ } :=
  { (resetWith_inv h.par 0).answered d with fb := h.fb, fbRange := h.fbRange }

/-- R153: the range check of each writable register is its clause of the invariant. -/
theorem State.Inv.writeReg {s t : State} {r : Reg} {v : Word} (h : s.Inv) (hw : s.writeReg r v = .ok t) :
    t.Inv := by
  obtain ⟨⟨-, hmax⟩, -⟩ := h.par
  rcases State.writeReg_cases hw with ⟨-, hv, rfl⟩ | ⟨-, hv, rfl⟩ | ⟨-, hv, rfl⟩ | ⟨-, rfl⟩
  · have hmss : (v.setWidth 16).toNat = v.toNat := by
      rw [BitVec.toNat_setWidth]
      exact Nat.mod_eq_of_lt (by omega)
    exact { h with mss := by simpa only [hmss] using hv }
  · exact { h with flen := (BitVec.toNat_setWidth 17 v).trans_le ((Nat.mod_le _ _).trans hv) }
  · exact { h with seq := hv }
  · exact { h with }

theorem State.Inv.writeByte {s : State} {a : Nat} (h : s.Inv) (ha : s.FbHas a) (b : Byte) :
    (s.writeByte a b).Inv :=
  { h with
    fb := Memory.put_wf h.fb a b
    fbRange := fun c hc => by
      rcases Memory.mem_put hc with rfl | hc
      · exact ha
      · exact h.fbRange c hc }

/-- A frame's header lies in the buffer, and its length fits when the payload does (R105 to R107). -/
theorem State.Inv.frame {s : State} (h : s.Inv) (q : Word) (f : Half) {n : Nat} (hn : n ≤ s.par.mssMax) :
    (s.frame q f n).Inv := by
  have hlen : (BitVec.ofNat 17 (8 + n)).toNat ≤ s.par.mssMax + 8 := by
    rw [BitVec.toNat_ofNat]
    exact (Nat.mod_le _ _).trans (by omega)
  have hwf := State.frame_fb_wf h.fb q f n
  have hlt := State.frame_fb_lt h.fbRange (Nat.le_add_left 8 _) q f n
  rw [State.frame_eq]
  exact { h with flen := hlen, fb := hwf, fbRange := hlt }

/-- R103: the successor never is the sentinel. -/
theorem seqNext_toNat_le (p : Params) (q : Word) : (seqNext p q).toNat ≤ p.seqMod - 1 := by
  unfold seqNext
  split
  · exact Nat.zero_le _
  · rw [BitVec.toNat_ofNat]
    exact (Nat.mod_le _ _).trans (by omega)

/-- The fields of `RXSTAT` (R21) as R108 packs them. -/
theorem rxstatOf_fields (c l : Bool) (k : Kind) :
    (rxstatOf c k l).getLsbD 0 = c ∧ (rxstatOf c k l).extractLsb' 1 2 = k.code ∧
      (rxstatOf c k l).getLsbD 3 = l ∧ (rxstatOf c k l).getLsbD 4 = (c && l) := by
  cases c <;> cases l <;> cases k <;> decide

theorem kind_ne_invalid_of_lenOk {k : Kind} {plen mss : Half} (h : lenOk k plen mss = true) : k ≠ .invalid := by
  rintro rfl
  cases h

/-- R21, R108: the verdict bits `DEC` stores agree with the flag and the payload length it stores. -/
theorem State.decoded_verdict (s : State) :
    s.decoded.rxstat.extractLsb' 1 2 = (kindOf s.decoded.rxflag).code ∧
      s.decoded.rxstat.getLsbD 3 = lenOk (kindOf s.decoded.rxflag) s.decoded.rxplen s.mss ∧
      s.decoded.rxstat.getLsbD 4 = (s.decoded.rxstat.getLsbD 0 && s.decoded.rxstat.getLsbD 3) := by
  obtain ⟨hcsum, hkind, hlen, hvalid⟩ := rxstatOf_fields (s.frameChecksum = s.readHalf 4)
    (lenOk (kindOf s.decoded.rxflag) s.decoded.rxplen s.mss) (kindOf s.decoded.rxflag)
  exact ⟨hkind, hlen, hvalid.trans (congrArg₂ _ hcsum.symm hlen.symm)⟩

/-- R20: the payload of a frame that lies in the buffer is no longer than the buffer less the header. -/
theorem State.Inv.decoded {s : State} (h : s.Inv) : s.decoded.Inv := by
  obtain ⟨hkind, hlen, hvalid⟩ := s.decoded_verdict
  have hflen : s.flen.toNat ≤ s.par.mssMax + 8 := h.flen
  have hplen : s.decoded.rxplen.toNat ≤ s.par.mssMax := by
    rw [State.decoded_rxplen, BitVec.toNat_ofNat]
    exact (Nat.mod_le _ _).trans (by omega)
  exact { h with
    rxplen := hplen
    kind := hkind
    lenOk := fun hl => kind_ne_invalid_of_lenOk (hlen.symm.trans hl)
    valid := hvalid }

/-! ### Every command keeps the invariant -/

/-- The checks the invariant of `okState` rests on: the address of `FBWR` and the length of `ENCDATA`. -/
def okGuard (i : Instr) (s : State) : Prop :=
  match i with
  | .fbwr addr _ => s.FbHas addr
  | .encdata plen => plen ≤ s.mss.toNat
  | _ => True

/-- A command that answers `OK` has passed its checks. -/
theorem okGuard_of_exec_ok {i : Instr} {s t : State} {d : Word} (hx : exec i s = .next t)
    (hok : t.rsp = some ⟨.ok, d⟩) : okGuard i s := by
  have hraise : ∀ e, raise e s ≠ .next t := fun e he => by
    rw [raise_next.1 he] at hok
    cases hok
  cases i with
  | fbwr addr byte =>
    by_contra hbad
    exact hraise .addr ((if_neg hbad).symm.trans hx)
  | encdata plen =>
    by_contra hbad
    exact hraise .len ((if_pos (Nat.lt_of_not_le hbad)).symm.trans hx)
  | _ => trivial

/-- What a command leaves when it answers `OK`, with its response, meets the invariant. -/
theorem State.Inv.okState_answered {i : Instr} {s : State} (h : s.Inv) (hg : okGuard i s) (d : Word) :
    State.Inv { okState i s with rsp := some ⟨.ok, d⟩ } := by
  cases i with
  | nop | regrd _ | fbrd _ | tmpoll => exact h.answered d
  | csclr | csaddw _ | csaddb _ | tmarm | tmstop => exact { h.answered d with }
  | csbuf mode => cases mode <;> exact { h.answered d with }
  | regwr reg value =>
    simp only [okState]
    split
    · exact h.answered d
    · split
      · next hw => exact (h.writeReg hw).answered d
      · exact h.answered d
  | fbwr addr byte => exact (h.writeByte hg byte).answered d
  | srst => exact h.resetRegisters_answered d
  | encdata plen =>
    have hframe := h.frame s.seq flagData (hg.trans h.mss.2)
    exact { hframe.answered d with seq := seqNext_toNat_le s.par s.seq }
  | encack seq => exact (h.frame seq flagAck (Nat.zero_le _)).answered d
  | encclose => exact (h.frame s.seq flagClose (Nat.zero_le _)).answered d
  | dec => exact h.decoded.answered d

theorem State.Inv.exec {i : Instr} {s t : State} (h : s.Inv) (hx : exec i s = .next t) : t.Inv := by
  rcases exec_outcome i s with ⟨e, he⟩ | ⟨d, hd⟩
  · exact h.raise (he.symm.trans hx)
  · obtain rfl := respond_next.1 (hd.symm.trans hx)
    exact h.okState_answered (okGuard_of_exec_ok hx rfl) d

theorem State.Inv.issue {w : CmdWord} {s t : State} (h : s.Inv) (hx : issue w s = .next t) : t.Inv := by
  cases hd : decode w with
  | ok i => exact h.exec ((issue_of_decode_ok hd s).symm.trans hx)
  | error e => exact h.raise ((issue_of_decode_error hd s).symm.trans hx)

/-! ### Every step keeps the invariant -/

/-- What one served port event can be: a reset, a response held or taken, a command, or nothing. -/
theorem serve_cases {p : PortIn} {s t : State} (h : serve p s = .next t) :
    t = s.hardReset ∨ t = s.deliver ∨ (∃ w, issue w s = .next t) ∨ t = s := by
  unfold serve at h
  split at h
  · cases h; exact .inl rfl
  · split at h
    · split at h
      · cases h; exact .inr (.inl rfl)
      · cases h; exact .inr (.inr (.inr rfl))
    · split at h
      · exact .inr (.inr (.inl ⟨_, h⟩))
      · cases h; exact .inr (.inr (.inr rfl))

theorem State.Inv.serve {p : PortIn} {s t : State} (h : s.Inv) (hx : serve p s = .next t) : t.Inv := by
  rcases serve_cases hx with rfl | rfl | ⟨w, hw⟩ | rfl
  · exact h.hardReset
  · exact h.deliver
  · exact h.issue hw
  · exact h

/-- Settles O48: a step samples the inputs and serves them, and each of the two keeps the invariant. -/
theorem stepKeepsTheInvariant : Obligations.StepKeepsTheInvariant := by
  intro s t h hstep
  cases hin : s.inputs with
  | nil =>
    rw [step_of_inputs_nil hin] at hstep
    cases hstep
    exact h
  | cons p ps =>
    rw [step_of_inputs_cons hin] at hstep
    exact (h.sample ps p.now).serve hstep

end Sys2Proof.Machine

/-! Proofs of the family 10_state: `ERRS` as a record of refusals (O44), the column "written by" of R11 (O45), the
ports as a runner of commands (O49, O7, O8) and `ID` (O13). -/

namespace Sys2Proof.Machine

/-! ### What a command that answers `OK` changes -/

/-- The registers of R11 are declared in the order of their numbers. -/
theorem Reg.number_of_ofNumber? {n : Nat} {r : Reg} (h : Reg.ofNumber? n = some r) : n = r.ctorIdx := by
  unfold Reg.ofNumber? at h
  split at h <;> cases h <;> rfl

/-- R153: `REGWR` writes one of the four writable registers, or nothing. -/
theorem okState_regwr_cases (reg : Nat) (v : Word) (s : State) :
    okState (.regwr reg v) s = s ∨
    (reg = 2 ∧ okState (.regwr reg v) s = { s with mss := v.setWidth 16 }) ∨
    (reg = 3 ∧ okState (.regwr reg v) s = { s with flen := v.setWidth 17 }) ∨
    (reg = 4 ∧ okState (.regwr reg v) s = { s with seq := v }) ∨
    (reg = 11 ∧ okState (.regwr reg v) s = { s with tmo := v }) := by
  simp only [okState]
  cases hr : Reg.ofNumber? reg with
  | none => exact .inl rfl
  | some r =>
    have hnum := Reg.number_of_ofNumber? hr
    cases hw : s.writeReg r v with
    | error e => exact .inl (by simp only [hw])
    | ok t =>
      simp only [hw]
      rcases State.writeReg_cases hw with ⟨rfl, -, h⟩ | ⟨rfl, -, h⟩ | ⟨rfl, -, h⟩ | ⟨rfl, h⟩
      · exact .inr (.inl ⟨hnum, h⟩)
      · exact .inr (.inr (.inl ⟨hnum, h⟩))
      · exact .inr (.inr (.inr (.inl ⟨hnum, h⟩)))
      · exact .inr (.inr (.inr (.inr ⟨hnum, h⟩)))

/-- R6, R29: no command changes the parameters, the reset count, or the ports' side. -/
theorem okState_frame (i : Instr) (s : State) :
    (okState i s).par = s.par ∧ (okState i s).fbEpoch = s.fbEpoch ∧ (okState i s).now = s.now ∧
      (okState i s).inputs = s.inputs ∧ (okState i s).delivered = s.delivered := by
  cases i with
  | regwr reg v =>
    rcases okState_regwr_cases reg v s with h | ⟨-, h⟩ | ⟨-, h⟩ | ⟨-, h⟩ | ⟨-, h⟩ <;> simp [h]
  | csbuf mode => cases mode <;> simp [okState]
  | _ => simp [okState]

/-- R26: of the commands that answer `OK`, only `SRST` changes `ERRS`. -/
theorem okState_errs {i : Instr} (hi : i ≠ .srst) (s : State) : (okState i s).errs = s.errs := by
  cases i with
  | srst => exact absurd rfl hi
  | regwr reg v =>
    rcases okState_regwr_cases reg v s with h | ⟨-, h⟩ | ⟨-, h⟩ | ⟨-, h⟩ | ⟨-, h⟩ <;> simp [h]
  | csbuf mode => cases mode <;> rfl
  | _ => simp [okState]

/-- R6, R29: no command word changes the parameters, the reset count, or the ports' side. -/
theorem issue_frame {w : CmdWord} {s t : State} (h : issue w s = .next t) :
    t.par = s.par ∧ t.fbEpoch = s.fbEpoch ∧ t.now = s.now ∧ t.inputs = s.inputs ∧ t.delivered = s.delivered := by
  rcases issue_cases h with ⟨e, rfl⟩ | ⟨i, d, -, rfl⟩
  · exact ⟨rfl, rfl, rfl, rfl, rfl⟩
  · exact okState_frame i s

/-! ### ERRS is a sticky record of refusals (R26) -/

/-- Every bit set in `a` is set in `b`. -/
def BitsKept (a b : BitVec 6) : Prop := ∀ k, a.getLsbD k = true → b.getLsbD k = true

theorem BitsKept.refl (a : BitVec 6) : BitsKept a a := fun _ h => h

theorem BitsKept.trans {a b c : BitVec 6} (hab : BitsKept a b) (hbc : BitsKept b c) : BitsKept a c :=
  fun k h => hbc k (hab k h)

theorem BitsKept.or_right (a b : BitVec 6) : BitsKept a (a ||| b) := fun k h => by
  rw [BitVec.getLsbD_or, h, Bool.true_or]

/-- The bit of the error that the response reports, if any, is set. -/
def Recorded (errs : BitVec 6) (r : Response) : Prop := ∀ e, r.status = .err e → errs.getLsbD e.code = true

theorem Recorded.mono {a b : BitVec 6} {r : Response} (h : Recorded a r) (hab : BitsKept a b) : Recorded b r :=
  fun e he => hab _ (h e he)

/-- When no bit is set, a recorded response is no error. -/
theorem Recorded.ok_of_zero {r : Response} (h : Recorded 0 r) : r.status = .ok := by
  cases hr : r.status with
  | ok => rfl
  | err e => exact absurd (h e hr) (by simp)

/-- R172, R175: a command word is answered with one response, and the error it reports is recorded in `ERRS`. -/
theorem issue_response {w : CmdWord} {s t : State} (h : issue w s = .next t) :
    ∃ r, t.rsp = some r ∧ Recorded t.errs r := by
  rcases issue_cases h with ⟨e, rfl⟩ | ⟨i, d, -, rfl⟩
  · refine ⟨_, rfl, ?_⟩
    rintro _ ⟨⟩
    rw [BitVec.getLsbD_or, e.bit_getLsbD_code, Bool.or_true]
  · exact ⟨_, rfl, nofun⟩

/-- R26: only `SRST` clears a bit of `ERRS`. -/
theorem issue_bitsKept {w : CmdWord} {s t : State} (h : issue w s = .next t) (hw : decode w ≠ .ok .srst) :
    BitsKept s.errs t.errs := by
  rcases issue_cases h with ⟨e, rfl⟩ | ⟨i, d, hi, rfl⟩
  · exact .or_right _ _
  · have hne : i ≠ .srst := fun he => hw (he ▸ hi)
    show BitsKept s.errs (okState i s).errs
    rw [okState_errs hne]
    exact .refl _

/-- R26: bit 0 of `ERRS` is never set. -/
theorem issue_errs_bit_zero {w : CmdWord} {s t : State} (h : issue w s = .next t)
    (hs : s.errs.getLsbD 0 = false) : t.errs.getLsbD 0 = false := by
  rcases issue_cases h with ⟨e, rfl⟩ | ⟨i, d, -, rfl⟩
  · rw [BitVec.getLsbD_or, hs, e.bit_getLsbD_zero]
    rfl
  · show (okState i s).errs.getLsbD 0 = false
    by_cases hi : i = .srst
    · rw [hi]
      exact BitVec.getLsbD_zero
    · rwa [okState_errs hi]

/-- R175: every command word, legal or not, answers a next state. -/
theorem issue_completes (w : CmdWord) (s : State) : ∃ t, issue w s = .next t := by
  cases hd : decode w with
  | error e => exact ⟨_, issue_of_decode_error hd s⟩
  | ok i =>
    rcases exec_outcome i s with ⟨e, he⟩ | ⟨d, hok⟩
    · exact ⟨_, (issue_of_decode_ok hd s).trans he⟩
    · exact ⟨_, (issue_of_decode_ok hd s).trans hok⟩

theorem runCommands_cons {c : CmdWord × Clock} {s t : State} (h : issue c.1 { s with now := c.2 } = .next t)
    (cs : List (CmdWord × Clock)) : runCommands (c :: cs) s = runCommands cs t.deliver := by
  simp only [runCommands, h]

/-- Commands without `SRST` keep the set bits of `ERRS`, and every error they report is recorded in the final `ERRS`. -/
theorem runCommands_recorded (cs : List (CmdWord × Clock)) {s : State} (hs : s.rsp = none)
    (hcs : ∀ c ∈ cs, decode c.1 ≠ .ok .srst) :
    ∃ t rs, runCommands cs s = .next t ∧ t.rsp = none ∧ t.delivered = s.delivered ++ rs ∧
      rs.length = cs.length ∧ BitsKept s.errs t.errs ∧ ∀ r ∈ rs, Recorded t.errs r := by
  induction cs generalizing s with
  | nil => exact ⟨s, [], rfl, hs, (List.append_nil _).symm, rfl, .refl _, nofun⟩
  | cons c cs ih =>
    obtain ⟨u, hu⟩ := issue_completes c.1 { s with now := c.2 }
    obtain ⟨-, -, -, -, hdel⟩ := issue_frame hu
    obtain ⟨r, hr, hrec⟩ := issue_response hu
    have hkept := issue_bitsKept hu (hcs c List.mem_cons_self)
    obtain ⟨t, rs, hrun, hrsp, hdt, hlen, hkt, hrt⟩ :=
      ih u.deliver_rsp fun c' h' => hcs c' (List.mem_cons_of_mem _ h')
    rw [State.deliver_errs] at hkt
    refine ⟨t, r :: rs, (runCommands_cons hu cs).trans hrun, hrsp, ?_, congrArg Nat.succ hlen, hkept.trans hkt,
      List.forall_mem_cons.2 ⟨hrec.mono hkt, hrt⟩⟩
    rw [hdt, State.deliver_eq_of_some u r hr, hdel, List.append_assoc, List.singleton_append]

/-- Settles O44: the last clause is the record `runCommands_recorded` read at `ERRS = 0`. -/
theorem errsIsAStickyRecordOfRefusals : Obligations.ErrsIsAStickyRecordOfRefusals := by
  refine ⟨fun w s t k h hw => issue_bitsKept h hw k, fun w s t => issue_errs_bit_zero,
    fun s t h => ?_, fun cs s hs hcs => ?_⟩
  · rw [respond_next.1 h]
    rfl
  · obtain ⟨t, rs, hrun, hrsp, hdel, hlen, -, hrec⟩ := runCommands_recorded cs hs hcs
    exact ⟨t, rs, hrun, hrsp, hdel, hlen, fun h0 r hr => (h0 ▸ hrec r hr).ok_of_zero⟩

/-! ### The column "written by" of R11 -/

/-- Settles O45: a refusal changes `ERRS` alone, and each command that answers `OK` changes what `okState` says. -/
theorem registersChangeOnlyByTheirCommands : Obligations.RegistersChangeOnlyByTheirCommands := by
  intro i s t h
  rcases exec_cases h with ⟨e, rfl⟩ | ⟨d, rfl⟩
  · simp
  · cases i with
    | nop | regrd _ | fbrd _ | tmpoll => simp [okState]
    | regwr reg v =>
      rcases okState_regwr_cases reg v s with h | ⟨rfl, h⟩ | ⟨rfl, h⟩ | ⟨rfl, h⟩ | ⟨rfl, h⟩ <;> simp [h]
    | csbuf mode => cases mode <;> simp [okState]
    | encdata _ | encack _ | encclose => simp [okState, framesDatagram, Instr.mnemonic]
    | fbwr _ _ | srst | csclr | csaddw _ | csaddb _ | dec | tmarm | tmstop => simp [okState]

/-! ### The response handshake (R31) -/

theorem step_of_response_held {s : State} {p : PortIn} {ps : List PortIn} {r : Response} (hin : s.inputs = p :: ps)
    (hrst : p.rst = false) (hready : p.rspReady = false) (hrsp : s.rsp = some r) :
    step s = .next { s with inputs := ps, now := p.now } := by
  rw [step_of_inputs_cons hin]
  simp [serve, hrst, hready, hrsp]

theorem step_of_response_taken {s : State} {p : PortIn} {ps : List PortIn} {r : Response}
    (hin : s.inputs = p :: ps) (hrst : p.rst = false) (hready : p.rspReady = true) (hrsp : s.rsp = some r) :
    step s = .next { s with inputs := ps, now := p.now, rsp := none, delivered := s.delivered ++ [r] } := by
  rw [step_of_inputs_cons hin]
  simp [serve, hrst, hready, hrsp, State.deliver]

/-- Settles O7: no command is accepted, and the step is a held or a taken response. -/
theorem presentedResponseHoldsTheNextCommand : Obligations.PresentedResponseHoldsTheNextCommand :=
  fun _ _ _ _ hin hrst hrsp => ⟨by simp [State.outputs, hrsp],
    fun hready => step_of_response_held hin hrst hready hrsp,
    fun hready => step_of_response_taken hin hrst hready hrsp⟩

/-- R62: the response word is `STATUS` over 32 bits of data. -/
theorem Response.word_toNat (r : Response) : r.word.toNat = r.status.code.toNat * 2 ^ 32 + r.data.toNat := by
  rw [Response.word, BitVec.toNat_append, ← Nat.shiftLeft_add_eq_or_of_lt r.data.isLt, Nat.shiftLeft_eq]

/-- Settles O8: the ports by the two inputs they depend on, `rst` and the response outstanding. -/
theorem outputPortsShowReadinessAndResponse : Obligations.OutputPortsShowReadinessAndResponse := by
  intro s p
  refine ⟨by simp [State.outputs], fun hrst => by simp [State.outputs, hrst],
    fun _ hrsp => by simp [State.outputs, hrsp], fun st d hrst hrsp => ?_⟩
  have hword : (s.outputs p).rsp = some (Response.word ⟨st, d⟩) := by simp [State.outputs, hrst, hrsp]
  exact ⟨_, hword, Response.word_toNat ⟨st, d⟩⟩

/-! ### A command list at the ports (R31, R68) -/

/-- The next state of an outcome, changed by `f`. -/
def mapNext (f : State → State) : Host.Outcome State Fault Refusal → Host.Outcome State Fault Refusal
  | .next t => .next (f t)
  | .fault e => .fault e
  | .refused r => .refused r

/-- The same block, with other port activity to come. -/
def State.withInputs (s : State) (ps : List PortIn) : State := { s with inputs := ps }

theorem State.writeReg_withInputs (s : State) (ps : List PortIn) (r : Reg) (v : Word) :
    (s.withInputs ps).writeReg r v = (s.writeReg r v).map (State.withInputs · ps) := by
  cases r with
  | mss | flen | seq =>
    simp only [State.writeReg, apply_ite (Except.map _)]
    rfl
  | _ => rfl

/-- No command reads or writes the port activity to come. -/
theorem exec_withInputs (i : Instr) (s : State) (ps : List PortIn) :
    exec i (s.withInputs ps) = mapNext (State.withInputs · ps) (exec i s) := by
  cases i with
  | regrd reg =>
    simp only [exec, execRegrd]
    cases Reg.ofNumber? reg <;> rfl
  | regwr reg v =>
    simp only [exec, execRegwr]
    cases Reg.ofNumber? reg with
    | none => rfl
    | some r =>
      simp only [State.writeReg_withInputs]
      cases s.writeReg r v <;> rfl
  | fbrd addr =>
    simp only [exec, execFbrd, apply_ite (mapNext _)]
    rfl
  | fbwr addr byte =>
    simp only [exec, execFbwr, apply_ite (mapNext _)]
    rfl
  | encdata plen =>
    simp only [exec, execEncdata, apply_ite (mapNext _)]
    rfl
  | dec =>
    simp only [exec, execDec, apply_ite (mapNext _)]
    rfl
  | csbuf mode => cases mode <;> rfl
  | nop | srst | csclr | csaddw _ | csaddb _ | encack _ | encclose | tmarm | tmstop | tmpoll => rfl

theorem issue_withInputs (w : CmdWord) (s : State) (ps : List PortIn) :
    issue w (s.withInputs ps) = mapNext (State.withInputs · ps) (issue w s) := by
  unfold issue
  split
  · exact exec_withInputs _ s ps
  · rfl

theorem State.deliver_withInputs (s : State) (ps : List PortIn) :
    (s.withInputs ps).deliver = s.deliver.withInputs ps := by
  cases hr : s.rsp with
  | none => rw [State.deliver_eq_of_none s hr, State.deliver_eq_of_none (s.withInputs ps) hr]
  | some r =>
    rw [State.deliver_eq_of_some s r hr, State.deliver_eq_of_some (s.withInputs ps) r hr]
    rfl

theorem run_succ_of_step {s t : State} (h : step s = .next t) (k : Nat) :
    Host.Core.run Sys2Proof.core (k + 1) s = Host.Core.run Sys2Proof.core k t := by
  have hcore : Sys2Proof.core.step s = .next t := h
  simp only [Host.Core.run, hcore]

/-- A command that the host presents, taking the response at the next step, costs two steps of the block: one runs it,
one delivers. -/
theorem run_command_taken {c : CmdWord × Clock} {ps : List PortIn} {s t : State} (hrsp : s.rsp = none)
    (hin : s.inputs = hostInputs [c] ++ ps) (h : issue c.1 { s with now := c.2 } = .next t) (k : Nat) :
    Host.Core.run Sys2Proof.core (k + 2) s = Host.Core.run Sys2Proof.core k (t.deliver.withInputs ps) := by
  obtain ⟨-, -, hnow, -, -⟩ := issue_frame h
  obtain ⟨r, hr, -⟩ := issue_response h
  have hissue : step s = .next (t.withInputs (⟨false, none, true, c.2⟩ :: ps)) := by
    rw [step_of_command hin rfl rfl hrsp]
    exact (issue_withInputs c.1 { s with now := c.2 } _).trans (congrArg _ h)
  have htake : step (t.withInputs (⟨false, none, true, c.2⟩ :: ps)) = .next (t.deliver.withInputs ps) := by
    rw [State.deliver_eq_of_some t r hr, ← show t.now = c.2 from hnow]
    exact step_of_response_taken (p := ⟨false, none, true, t.now⟩) rfl rfl rfl hr
  rw [run_succ_of_step hissue, run_succ_of_step htake]

/-- Settles O49, by induction on the list: its first command costs the first two steps (`run_command_taken`). -/
theorem portsRunACommandListInOrder : Obligations.PortsRunACommandListInOrder := by
  intro cs ps s hrsp hin
  induction cs generalizing s with
  | nil =>
    obtain rfl : s.inputs = ps := hin
    rfl
  | cons c cs ih =>
    obtain ⟨t, ht⟩ := issue_completes c.1 { s with now := c.2 }
    have hissue : issue c.1 { s.withInputs ps with now := c.2 } = .next (t.withInputs ps) :=
      (issue_withInputs c.1 { s with now := c.2 } ps).trans (congrArg _ ht)
    have hrun : runCommands (c :: cs) (s.withInputs ps) = runCommands cs (t.deliver.withInputs ps) := by
      rw [runCommands_cons hissue, State.deliver_withInputs]
    have hfirst := run_command_taken hrsp hin ht (2 * cs.length)
    have hrest := ih (t.deliver.withInputs (hostInputs cs ++ ps)) t.deliver_rsp rfl
    exact hfirst.trans (hrest.trans hrun.symm)

/-! ### The register `ID` -/

/-- Settles O13: register 0 is `ID`, which reads its constant and is not writable. -/
theorem idReadsItsConstantAndRefusesWrites : Obligations.IdReadsItsConstantAndRefusesWrites :=
  fun _ _ => ⟨rfl, rfl⟩

end Sys2Proof.Machine

/-! Proofs of the family 20_memory: who writes a byte of `FB` (O18), and which bytes of it a command reads: none at or
above `FLEN` for `CSBUF` and `DEC` (O26), none at or above `FB_SIZE` for any command (O46). -/

namespace Sys2Proof.Machine

/-! ### Which commands write a byte (R43, R48) -/

/-- Framing a datagram writes the header only. -/
theorem State.readByte_frame_of_ge (s : State) (q : Word) (f : Half) (n : Nat) {a : Nat} (ha : 8 ≤ a) :
    (s.frame q f n).readByte a = s.readByte a := by
  have hne : ∀ k, k < 8 → a ≠ k := fun k hk => by omega
  have hseal : (s.frame q f n).readByte a = (s.putHeader q f).readByte a :=
    (State.readByte_seal _ a).trans (by rw [if_neg (hne 5 (by omega)), if_neg (hne 4 (by omega))]; rfl)
  rw [hseal, State.readByte_putHeader]
  simp [hne]

theorem exec_fbEpoch {i : Instr} {s t : State} (hx : exec i s = .next t) : t.fbEpoch = s.fbEpoch := by
  rcases exec_cases hx with ⟨e, rfl⟩ | ⟨d, rfl⟩
  · rfl
  · obtain ⟨-, hepoch, -⟩ := okState_frame i s
    exact hepoch

/-- A command other than `FBWR` and the encode commands leaves the buffer as it is. -/
theorem exec_fb {i : Instr} {s t : State} (hx : exec i s = .next t) (hw : ∀ a b, i ≠ .fbwr a b)
    (hf : framesDatagram i = false) : t.fb = s.fb := by
  obtain ⟨-, -, -, -, -, -, -, -, -, hfb, -⟩ := registersChangeOnlyByTheirCommands i s t hx
  by_contra hne
  rcases hfb hne with ⟨a, b, hi⟩ | hi
  · exact hw a b hi
  · exact Bool.false_ne_true (hf.symm.trans hi)

/-- An encode command writes `FB` as `frame` does. -/
theorem okState_fb_of_framesDatagram {i : Instr} (hi : framesDatagram i = true) (s : State) :
    ∃ q f n, (okState i s).fb = (s.frame q f n).fb := by
  cases i with
  | encdata plen => exact ⟨s.seq, flagData, plen, rfl⟩
  | encack seq => exact ⟨seq, flagAck, 0, rfl⟩
  | encclose => exact ⟨s.seq, flagClose, 0, rfl⟩
  | _ => cases hi

/-- A byte is changed only by an `FBWR` to it and, below 8, by an encode command. -/
theorem exec_readByte {i : Instr} {s t : State} {a : Nat} (hx : exec i s = .next t) (hw : ∀ b, i ≠ .fbwr a b)
    (hf : framesDatagram i = true → 8 ≤ a) : t.readByte a = s.readByte a := by
  by_cases hframes : framesDatagram i = true
  · rcases exec_cases hx with ⟨e, rfl⟩ | ⟨d, rfl⟩
    · rfl
    · obtain ⟨q, f, n, hfb⟩ := okState_fb_of_framesDatagram hframes s
      obtain ⟨-, hepoch, -⟩ := okState_frame i s
      have hbytes : State.readByte { okState i s with rsp := some ⟨.ok, d⟩ } = (s.frame q f n).readByte :=
        State.readByte_congr hfb (hepoch.trans (s.frame_fbEpoch q f n).symm)
      rw [hbytes, s.readByte_frame_of_ge q f n (hf hframes)]
  · by_cases hwrites : ∃ x b, i = .fbwr x b
    · obtain ⟨x, b, rfl⟩ := hwrites
      have hne : a ≠ x := fun h => hw b (h ▸ rfl)
      rcases exec_cases hx with ⟨e, rfl⟩ | ⟨d, rfl⟩
      · rfl
      · exact (State.readByte_writeByte s x b a).trans (if_neg hne)
    · have hfb := exec_fb hx (fun x b hi => hwrites ⟨x, b, hi⟩) (Bool.eq_false_of_not_eq_true hframes)
      exact congrFun (State.readByte_congr hfb (exec_fbEpoch hx)) a

theorem issue_readByte {w : CmdWord} {s t : State} {a : Nat} (hx : issue w s = .next t)
    (h : ∀ i, decode w = .ok i → (∀ b, i ≠ .fbwr a b) ∧ (framesDatagram i = true → 8 ≤ a)) :
    t.readByte a = s.readByte a := by
  cases hd : decode w with
  | ok i =>
    obtain ⟨hw, hf⟩ := h i hd
    exact exec_readByte ((issue_of_decode_ok hd s).symm.trans hx) hw hf
  | error e =>
    rw [raise_next.1 ((issue_of_decode_error hd s).symm.trans hx)]
    rfl

/-- Settles O18, by induction on the list: neither the clock sample, nor the command (`issue_readByte`), nor the delivery
of its response changes the byte. -/
theorem bytesHoldUntilACommandWritesThem : Obligations.BytesHoldUntilACommandWritesThem := by
  intro cs s a hcs
  induction cs generalizing s with
  | nil => exact ⟨s, rfl, rfl⟩
  | cons c cs ih =>
    obtain ⟨hc, hcs⟩ := List.forall_mem_cons.1 hcs
    obtain ⟨u, hu⟩ := issue_completes c.1 { s with now := c.2 }
    obtain ⟨t, hrun, ht⟩ := ih u.deliver hcs
    refine ⟨t, (runCommands_cons hu cs).trans hrun, ?_⟩
    calc t.readByte a
      _ = u.deliver.readByte a := ht
      _ = u.readByte a := congrFun (State.readByte_congr u.deliver_fb u.deliver_fbEpoch) a
      _ = State.readByte { s with now := c.2 } a := issue_readByte hu hc
      _ = s.readByte a := rfl

/-- R45: an address at or above `FB_SIZE` is no command's to write. -/
theorem issue_readByte_of_ge {w : CmdWord} {s t : State} {a : Nat} (ha : s.par.fbSize ≤ a)
    (hx : issue w s = .next t) : t.readByte a = s.readByte a := by
  by_cases hw : ∃ b, decode w = .ok (.fbwr a b)
  · obtain ⟨b, hd⟩ := hw
    have hrefused : exec (.fbwr a b) s = raise .addr s := if_neg (Nat.not_lt.2 ha)
    rw [raise_next.1 (hrefused.symm.trans ((issue_of_decode_ok hd s).symm.trans hx))]
    rfl
  · exact issue_readByte hx fun i hd => ⟨fun b hi => hw ⟨b, hi ▸ hd⟩, fun _ => (Nat.le_add_left 8 _).trans ha⟩

/-! ### The same block with another buffer -/

/-- The same registers and ports over another buffer: other written bytes, other free bytes. -/
def State.withBuffer (s : State) (m : Memory) (e : Nat) : State := { s with fb := m, fbEpoch := e }

theorem State.readReg_withBuffer (s : State) (m : Memory) (e : Nat) (r : Reg) :
    (s.withBuffer m e).readReg r = s.readReg r := by
  cases r <;> rfl

theorem State.writeReg_withBuffer (s : State) (m : Memory) (e : Nat) (r : Reg) (v : Word) :
    (s.withBuffer m e).writeReg r v = (s.writeReg r v).map (State.withBuffer · m e) := by
  cases r with
  | mss | flen | seq =>
    simp only [State.writeReg, apply_ite (Except.map _)]
    rfl
  | _ => rfl

/-! ### Equal bytes give equal checksums and equal frames -/

namespace SameBytesBelow

variable {n : Nat} {s t : State}

theorem writeByte (h : SameBytesBelow n s t) (a : Nat) (b : Byte) :
    SameBytesBelow n (s.writeByte a b) (t.writeByte a b) := fun x hx => by
  rw [State.readByte_writeByte, State.readByte_writeByte, h x hx]

theorem putHeader (h : SameBytesBelow n s t) (q : Word) (f : Half) :
    SameBytesBelow n (s.putHeader q f) (t.putHeader q f) := fun x hx => by
  rw [State.readByte_putHeader, State.readByte_putHeader, h x hx]

theorem readHalf (h : SameBytesBelow n s t) {a : Nat} (ha : a + 1 < n) : t.readHalf a = s.readHalf a := by
  rw [State.readHalf, State.readHalf, h a (by omega), h (a + 1) ha]

theorem readWord (h : SameBytesBelow n s t) {a : Nat} (ha : a + 3 < n) : t.readWord a = s.readWord a := by
  rw [State.readWord, State.readWord, h a (by omega), h (a + 1) (by omega), h (a + 2) (by omega), h (a + 3) ha]

theorem frameChecksum (h : SameBytesBelow n s t) (hflen : t.flen = s.flen) (hn : s.flen.toNat ≤ n) :
    t.frameChecksum = s.frameChecksum := by
  rw [State.frameChecksum, State.frameChecksum, hflen]
  exact cksumMasked_congr _ fun a ha _ _ => h a (by omega)

theorem sealed (h : SameBytesBelow n s t) (hflen : t.flen = s.flen) (hn : s.flen.toNat ≤ n) :
    SameBytesBelow n s.seal t.seal := fun x hx => by
  rw [State.readByte_seal, State.readByte_seal, h.frameChecksum hflen hn, h x hx]

end SameBytesBelow

section

variable {n : Nat} {s : State} {m : Memory} {e : Nat}

/-- A frame that fits below `n`, built over buffers that agree below `n`: equal bytes there, and the same registers. -/
theorem State.frame_withBuffer (h : SameBytesBelow n s (s.withBuffer m e)) (q : Word) (f : Half) {plen : Nat}
    (hn : 8 + plen ≤ n) :
    ∃ m', (s.withBuffer m e).frame q f plen = (s.frame q f plen).withBuffer m' e ∧
      SameBytesBelow n (s.frame q f plen) ((s.frame q f plen).withBuffer m' e) := by
  have hlen : (BitVec.ofNat 17 (8 + plen)).toNat ≤ n := by
    rw [BitVec.toNat_ofNat]
    exact (Nat.mod_le _ _).trans hn
  have hheader : SameBytesBelow n { s.putHeader q f with flen := BitVec.ofNat 17 (8 + plen) }
      { (s.withBuffer m e).putHeader q f with flen := BitVec.ofNat 17 (8 + plen) } := h.putHeader q f
  have hacc : ((s.withBuffer m e).frame q f plen).acc = (s.frame q f plen).acc := hheader.frameChecksum rfl hlen
  have heq : (s.withBuffer m e).frame q f plen =
      (s.frame q f plen).withBuffer ((s.withBuffer m e).frame q f plen).fb e := by
    rw [State.frame_eq, hacc, State.frame_eq s]
    rfl
  exact ⟨_, heq, heq ▸ hheader.sealed rfl hlen⟩

/-- `DEC` of frames that agree gives the same registers. -/
theorem State.decoded_withBuffer (h : SameBytesBelow n s (s.withBuffer m e)) (hmin : 8 ≤ s.flen.toNat)
    (hn : s.flen.toNat ≤ n) : (s.withBuffer m e).decoded = s.decoded.withBuffer m e := by
  have hseq := h.readWord (a := 0) (by omega)
  have hcsum := h.readHalf (a := 4) (by omega)
  have hflag := h.readHalf (a := 6) (by omega)
  have hck := h.frameChecksum rfl hn
  simp only [State.decoded, hseq, hcsum, hflag, hck]
  rfl

/-! ### Which bytes a command reads (R43) -/

/-- Every byte that the command reads, or sums over, lies below `n`; one refused for its operand reads none. -/
def ReadsBelow (n : Nat) (i : Instr) (s : State) : Prop :=
  match i with
  | .fbrd addr => s.FbHas addr → addr < n
  | .csbuf _ | .dec => s.flen.toNat ≤ n
  | .encdata plen => plen ≤ s.mss.toNat → 8 + plen ≤ n
  | .encack _ | .encclose => 8 ≤ n
  | _ => True

/-- R43, R45: in a state that meets the invariant, every byte a command reads lies in the buffer. -/
theorem State.Inv.readsBelow (h : s.Inv) (i : Instr) : ReadsBelow s.par.fbSize i s := by
  obtain ⟨-, hmss⟩ := h.mss
  cases i with
  | fbrd addr => exact id
  | csbuf _ | dec => exact h.flen
  | encdata plen =>
    intro hlen
    show 8 + plen ≤ s.par.mssMax + 8
    omega
  | encack _ | encclose => exact Nat.le_add_left 8 _
  | _ => trivial

/-- The two runs answer alike and end with the same registers and the same bytes below `n`. -/
def AlikeBelow (n e : Nat) (x y : Host.Outcome State Fault Refusal) : Prop :=
  ∃ t m', x = .next t ∧ y = .next (t.withBuffer m' e) ∧ SameBytesBelow n t (t.withBuffer m' e)

theorem alikeBelow_raise (h : SameBytesBelow n s (s.withBuffer m e)) (err : ErrCode) :
    AlikeBelow n e (raise err s) (raise err (s.withBuffer m e)) :=
  ⟨_, m, rfl, rfl, h⟩

theorem alikeBelow_respond (h : SameBytesBelow n s (s.withBuffer m e)) (d : Word) :
    AlikeBelow n e (respond d s) (respond d (s.withBuffer m e)) :=
  ⟨_, m, rfl, rfl, h⟩

theorem alikeBelow_ite {c : Prop} [Decidable c] {x x' y y' : Host.Outcome State Fault Refusal}
    (hc : c → AlikeBelow n e x y) (hnc : ¬c → AlikeBelow n e x' y') :
    AlikeBelow n e (if c then x else x') (if c then y else y') := by
  split
  · exact hc ‹c›
  · exact hnc ‹¬c›

/-- A command whose reads lie below `n`, over buffers that agree below `n`. -/
theorem exec_alikeBelow (h : SameBytesBelow n s (s.withBuffer m e)) {i : Instr} (hi : ReadsBelow n i s) :
    AlikeBelow n e (exec i s) (exec i (s.withBuffer m e)) := by
  cases i with
  | nop | srst | csclr | csaddw _ | csaddb _ | tmarm | tmstop | tmpoll => exact ⟨_, m, rfl, rfl, h⟩
  | regrd reg =>
    simp only [exec, execRegrd, State.readReg_withBuffer]
    cases Reg.ofNumber? reg with
    | none => exact alikeBelow_raise h _
    | some r => exact alikeBelow_respond h _
  | regwr reg v =>
    simp only [exec, execRegwr, State.writeReg_withBuffer]
    cases Reg.ofNumber? reg with
    | none => exact alikeBelow_raise h _
    | some r =>
      cases hw : s.writeReg r v with
      | error err => simpa only [hw, Except.map] using alikeBelow_raise h err
      | ok t =>
        simp only [hw, Except.map]
        rcases State.writeReg_cases hw with ⟨-, -, rfl⟩ | ⟨-, -, rfl⟩ | ⟨-, -, rfl⟩ | ⟨-, rfl⟩ <;>
          exact ⟨_, m, rfl, rfl, h⟩
  | fbrd addr =>
    refine alikeBelow_ite (fun ha => ?_) fun _ => alikeBelow_raise h .addr
    rw [h addr (hi ha)]
    exact alikeBelow_respond h _
  | fbwr addr byte =>
    exact alikeBelow_ite (fun _ => alikeBelow_respond (h.writeByte addr byte) 0) fun _ => alikeBelow_raise h .addr
  | csbuf mode =>
    have hbytes : ∀ a, a < s.flen.toNat → (s.withBuffer m e).readByte a = s.readByte a :=
      fun a ha => h a (ha.trans_le hi)
    cases mode with
    | masked =>
      have hsum := cksumMasked_congr s.flen.toNat fun a ha _ _ => hbytes a ha
      exact ⟨_, m, rfl, congrArg (respondAcc · (s.withBuffer m e)) hsum, h⟩
    | asIs => exact ⟨_, m, rfl, congrArg (respondAcc · (s.withBuffer m e)) (cksum_congr s.flen.toNat hbytes), h⟩
  | encdata plen =>
    refine alikeBelow_ite (fun _ => alikeBelow_raise h .len) fun hle => ?_
    obtain ⟨m', heq, hbytes⟩ := State.frame_withBuffer h s.seq flagData (hi (Nat.not_lt.1 hle))
    exact ⟨_, m', rfl, congrArg (fun t : State => respond s.seq { t with seq := seqNext s.par s.seq }) heq, hbytes⟩
  | encack seq =>
    obtain ⟨m', heq, hbytes⟩ := State.frame_withBuffer h seq flagAck (plen := 0) hi
    exact ⟨_, m', rfl, congrArg (fun t : State => respond (t.acc.setWidth 32) t) heq, hbytes⟩
  | encclose =>
    obtain ⟨m', heq, hbytes⟩ := State.frame_withBuffer h s.seq flagClose (plen := 0) hi
    exact ⟨_, m', rfl, congrArg (respond s.seq) heq, hbytes⟩
  | dec =>
    refine alikeBelow_ite (fun _ => alikeBelow_raise h .len) fun hmin => ?_
    have heq := State.decoded_withBuffer h (Nat.not_lt.1 hmin) hi
    exact ⟨_, m, rfl, congrArg (fun t : State => respond (t.rxstat.setWidth 32) t) heq, h⟩

theorem issue_alikeBelow (h : SameBytesBelow n s (s.withBuffer m e)) {w : CmdWord}
    (hw : ∀ i, decode w = .ok i → ReadsBelow n i s) : AlikeBelow n e (issue w s) (issue w (s.withBuffer m e)) := by
  cases hd : decode w with
  | ok i =>
    rw [issue_of_decode_ok hd, issue_of_decode_ok hd]
    exact exec_alikeBelow h (hw i hd)
  | error err =>
    rw [issue_of_decode_error hd, issue_of_decode_error hd]
    exact alikeBelow_raise h .illegal

end

/-- Settles O26: `CSBUF` and `DEC` read below `FLEN`, so the runs are alike (`exec_alikeBelow`); neither writes the
buffer, in either run (`exec_fb`). -/
theorem frameReadersSeeOnlyTheFrame : Obligations.FrameReadersSeeOnlyTheFrame := by
  intro s m e i hi hsame
  obtain ⟨hreads, hfbwr, hframes⟩ :
      ReadsBelow s.flen.toNat i s ∧ (∀ a b, i ≠ .fbwr a b) ∧ framesDatagram i = false := by
    rcases hi with rfl | ⟨mode, rfl⟩ <;> exact ⟨Nat.le_refl _, nofun, rfl⟩
  obtain ⟨t, m', ht, ht', -⟩ := exec_alikeBelow hsame hreads
  obtain rfl : m' = m := exec_fb ht' hfbwr hframes
  exact ⟨t, ht, exec_fb ht hfbwr hframes, exec_fbEpoch ht, ht'⟩

/-- Settles O46: the invariant puts every read below `FB_SIZE` (`State.Inv.readsBelow`), so the runs are alike, and no
write lands above (`issue_readByte_of_ge`). -/
theorem noCommandTouchesBytesBeyondTheBuffer : Obligations.NoCommandTouchesBytesBeyondTheBuffer := by
  intro w s m e hinv hsame
  obtain ⟨t, m', ht, ht', hbytes⟩ := issue_alikeBelow hsame (w := w) fun i _ => hinv.readsBelow i
  exact ⟨t, t.withBuffer m' e, ht, ht', rfl, hbytes, fun a ha => issue_readByte_of_ge ha ht⟩

end Sys2Proof.Machine

/-! Proofs of the family 30_encoding: the decoder and the encoder are inverse to each other (O1, O2), the opcode map
written out (O3), illegal words (O4), words of the spec's vectors (O5), and `LOADFRAME` (O50). -/

namespace Sys2Proof

open Laws

/-! ### What the decoder answers (R63, R64) -/

theorem Mnemonic.selects_iff_and {m : Mnemonic} {w : CmdWord} : m.selects w = true ↔ w &&& m.mask = m.pattern :=
  beq_iff_eq

theorem Mnemonic.opc_of_selects {m : Mnemonic} {w : CmdWord} (h : m.selects w = true) :
    CmdWord.opc w = CmdWord.opc m.pattern := by
  obtain ⟨hopc, -⟩ := (selects_iff m w).1 h
  exact hopc

theorem Mnemonic.rsv_of_selects {m : Mnemonic} {w : CmdWord} (h : m.selects w = true) : CmdWord.rsv w = 0 := by
  obtain ⟨-, hrsv, -⟩ := (selects_iff m w).1 h
  exact hrsv

/-- R63: the rows are mutually exclusive, since each fixes a different `OPC`. -/
theorem Mnemonic.selects_unique {m m' : Mnemonic} {w : CmdWord} (h : m.selects w = true)
    (h' : m'.selects w = true) : m = m' :=
  opc_pattern_inj ((opc_of_selects h).symm.trans (opc_of_selects h'))

/-- R64: a row selects the word and gives the command, or no row does and the word is illegal. -/
theorem decode_cases (w : CmdWord) :
    (∃ m : Mnemonic, m.selects w = true ∧ decode w = .ok (m.withOperands (CmdWord.b w) (CmdWord.a w))) ∨
    (∀ m : Mnemonic, ¬ m.selects w = true) ∧ decode w = .error (CmdWord.whyIllegal w) := by
  unfold decode
  split
  · next m hfind => exact .inl ⟨m, List.find?_some (p := fun m : Mnemonic => m.selects w) hfind, rfl⟩
  · next hfind => exact .inr ⟨fun m => List.find?_eq_none.1 hfind m (mem_all m), rfl⟩

theorem decode_of_selects {m : Mnemonic} {w : CmdWord} (h : m.selects w = true) :
    decode w = .ok (m.withOperands (CmdWord.b w) (CmdWord.a w)) := by
  rcases decode_cases w with ⟨m', h', hd⟩ | ⟨hnone, -⟩
  · rwa [Mnemonic.selects_unique h h']
  · exact absurd h (hnone m)

theorem decode_of_selects_none {w : CmdWord} (h : ∀ m : Mnemonic, ¬ m.selects w = true) :
    decode w = .error (CmdWord.whyIllegal w) := by
  rcases decode_cases w with ⟨m, hm, -⟩ | ⟨-, hd⟩
  · exact absurd hm (h m)
  · exact hd

/-! ### A command's operands are the fields of its word (R61) -/

theorem selects_encode (i : Instr) : i.mnemonic.selects (encode i) = true := by
  cases i with
  | nop => exact EncodeSelectsRow.nop
  | regrd reg => exact EncodeSelectsRow.regrd reg
  | regwr reg value => exact EncodeSelectsRow.regwr reg value
  | fbrd addr => exact EncodeSelectsRow.fbrd addr
  | fbwr addr byte => exact EncodeSelectsRow.fbwr addr byte
  | srst => exact EncodeSelectsRow.srst
  | csclr => exact EncodeSelectsRow.csclr
  | csaddw word => exact EncodeSelectsRow.csaddw word
  | csaddb byte => exact EncodeSelectsRow.csaddb byte
  | csbuf mode => exact EncodeSelectsRow.csbuf mode
  | encdata plen => exact EncodeSelectsRow.encdata plen
  | encack seq => exact EncodeSelectsRow.encack seq
  | encclose => exact EncodeSelectsRow.encclose
  | dec => exact EncodeSelectsRow.dec
  | tmarm => exact EncodeSelectsRow.tmarm
  | tmstop => exact EncodeSelectsRow.tmstop
  | tmpoll => exact EncodeSelectsRow.tmpoll

theorem b_encode (i : Instr) : CmdWord.b (encode i) = i.fieldB := b_fields i.opcode 0 i.fieldB i.fieldA

theorem a_encode (i : Instr) : CmdWord.a (encode i) = i.fieldA := a_fields i.opcode 0 i.fieldB i.fieldA

/-- The low bits of a zero-extended operand are the operand. -/
theorem extractLsb'_setWidth {n w : Nat} (x : BitVec n) (h : n ≤ w) : (x.setWidth w).extractLsb' 0 n = x := by
  rw [BitVec.extractLsb'_setWidth_of_le (by omega), BitVec.extractLsb'_eq_self]

/-- Assembling a well-formed command's operands from its own fields gives it back. -/
theorem withOperands_fields {i : Instr} (h : i.wellFormed = true) :
    i.mnemonic.withOperands i.fieldB i.fieldA = i := by
  have hfit : ∀ n, decide (n < 65536) = true → (BitVec.ofNat 16 n).toNat = n := fun n hn =>
    Nat.mod_eq_of_lt (of_decide_eq_true hn)
  cases i with
  | regrd reg => exact congrArg Instr.regrd (hfit reg h)
  | regwr reg value => exact congrArg (Instr.regwr · value) (hfit reg h)
  | fbrd addr => exact congrArg Instr.fbrd (hfit addr h)
  | fbwr addr byte => exact congrArg₂ Instr.fbwr (hfit addr h) (extractLsb'_setWidth byte (by decide))
  | encdata plen => exact congrArg Instr.encdata (hfit plen h)
  | csaddw word => exact congrArg Instr.csaddw (extractLsb'_setWidth word (by decide))
  | csaddb byte => exact congrArg Instr.csaddb (extractLsb'_setWidth byte (by decide))
  | csbuf mode => cases mode <;> rfl
  | nop | srst | csclr | encack _ | encclose | dec | tmarm | tmstop | tmpoll => rfl

/-- Settles O1: the word selects the command's own row, and that row reads the command's fields back. -/
theorem decodeOfEncodeIsTheCommand : Obligations.DecodeOfEncodeIsTheCommand := by
  intro i hi
  rw [decode_of_selects (selects_encode i), b_encode, a_encode, withOperands_fields hi]

/-! ### The fields of the command a word decodes to -/

/-- How many low bits of the field `B` are the row's operand; the mask fixes the others to 0 (R63). -/
def Mnemonic.widthB : Mnemonic → Nat
  | .regrd | .regwr | .fbrd | .fbwr | .encdata => 16
  | .nop | .srst | .csclr | .csaddw | .csaddb | .csbuf => 0
  | .encack | .encclose | .dec | .tmarm | .tmstop | .tmpoll => 0

/-- How many low bits of the field `A` are the row's operand; the mask fixes the others to 0 (R63). -/
def Mnemonic.widthA : Mnemonic → Nat
  | .regwr | .encack => 32
  | .csaddw => 16
  | .fbwr | .csaddb => 8
  | .csbuf => 1
  | .nop | .regrd | .fbrd | .srst | .csclr | .encdata => 0
  | .encclose | .dec | .tmarm | .tmstop | .tmpoll => 0

/-- A row's pattern is 0 outside `OPC`. -/
theorem Mnemonic.pattern_operands (m : Mnemonic) : CmdWord.b m.pattern = 0 ∧ CmdWord.a m.pattern = 0 := by
  cases m <;> decide

theorem Mnemonic.mask_b (m : Mnemonic) : ∀ k < 16, m.widthB ≤ k → (CmdWord.b m.mask).getLsbD k = true := by
  cases m <;> decide

theorem Mnemonic.mask_a (m : Mnemonic) : ∀ k < 32, m.widthA ≤ k → (CmdWord.a m.mask).getLsbD k = true := by
  cases m <;> decide

/-- A field whose bits from `n` up are masked to 0 is its low `n` bits, zero-extended. -/
theorem setWidth_low_of_and_eq_zero {w n : Nat} {x mask : BitVec w}
    (hmask : ∀ k < w, n ≤ k → mask.getLsbD k = true) (hx : x &&& mask = 0) :
    (x.extractLsb' 0 n).setWidth w = x := by
  apply BitVec.eq_of_getLsbD_eq
  intro k hk
  by_cases hn : k < n
  · simp [hk, hn]
  · have hbit : (x &&& mask).getLsbD k = false := by rw [hx]; exact BitVec.getLsbD_zero
    rw [BitVec.getLsbD_and, hmask k hk (by omega), Bool.and_true] at hbit
    simp [hn, hbit]

theorem mnemonic_withOperands (m : Mnemonic) (b : BitVec 16) (a : BitVec 32) :
    (m.withOperands b a).mnemonic = m := by cases m <;> rfl

theorem opcode_withOperands (m : Mnemonic) (b : BitVec 16) (a : BitVec 32) :
    (m.withOperands b a).opcode = CmdWord.opc m.pattern := by cases m <;> rfl

theorem wellFormed_withOperands (m : Mnemonic) (b : BitVec 16) (a : BitVec 32) :
    (m.withOperands b a).wellFormed = true := by
  have hb : decide (b.toNat < 65536) = true := decide_eq_true b.isLt
  cases m with
  | regrd | regwr | fbrd | fbwr | encdata => exact hb
  | _ => rfl

theorem fieldB_withOperands (m : Mnemonic) (b : BitVec 16) (a : BitVec 32) :
    (m.withOperands b a).fieldB = (b.extractLsb' 0 m.widthB).setWidth 16 := by
  cases m <;> simp [Mnemonic.withOperands, Instr.fieldB, Mnemonic.widthB]

theorem fieldA_withOperands (m : Mnemonic) (b : BitVec 16) (a : BitVec 32) :
    (m.withOperands b a).fieldA = (a.extractLsb' 0 m.widthA).setWidth 32 := by
  cases m with
  | csbuf =>
    have hbit : a.extractLsb' 0 1 = BitVec.ofBool (a.getLsbD 0) := by
      rw [← BitVec.setWidth_eq_extractLsb' (by decide), BitVec.setWidth_one]
    show (Instr.csbuf (if a.getLsbD 0 then .masked else .asIs)).fieldA = (a.extractLsb' 0 1).setWidth 32
    rw [hbit]
    cases a.getLsbD 0 <;> rfl
  | _ => simp [Mnemonic.withOperands, Instr.fieldA, Mnemonic.widthA]

/-- The command of the row that selects a word has the word's own fields (R61). -/
theorem withOperands_of_selects {m : Mnemonic} {w : CmdWord} (h : m.selects w = true) :
    (m.withOperands (CmdWord.b w) (CmdWord.a w)).fieldB = CmdWord.b w ∧
    (m.withOperands (CmdWord.b w) (CmdWord.a w)).fieldA = CmdWord.a w := by
  obtain ⟨-, -, hb, ha⟩ := (selects_iff m w).1 h
  obtain ⟨hpb, hpa⟩ := m.pattern_operands
  rw [fieldB_withOperands, fieldA_withOperands]
  exact ⟨setWidth_low_of_and_eq_zero m.mask_b (hb.trans hpb), setWidth_low_of_and_eq_zero m.mask_a (ha.trans hpa)⟩

theorem encode_withOperands {m : Mnemonic} {w : CmdWord} (h : m.selects w = true) :
    encode (m.withOperands (CmdWord.b w) (CmdWord.a w)) = w := by
  obtain ⟨hb, ha⟩ := withOperands_of_selects h
  rw [encode_eq_fields, opcode_withOperands, hb, ha, ← Mnemonic.opc_of_selects h, ← Mnemonic.rsv_of_selects h,
    fields_eq]

/-- Settles O2: the word's row assembles a well-formed command, whose four fields are the word's. -/
theorem encodeOfDecodeIsTheWord : Obligations.EncodeOfDecodeIsTheWord := by
  intro w i hi
  rcases decode_cases w with ⟨m, hm, hd⟩ | ⟨-, hd⟩
  · obtain rfl := Except.ok.inj (hd.symm.trans hi)
    exact ⟨wellFormed_withOperands m _ _, encode_withOperands hm⟩
  · cases hd.symm.trans hi

/-! ### The opcode map written out (R63) -/

/-- Settles O3: the rows written out are the model's, so matching one is `selects`. -/
theorem wordsDecodeByTheOneRowTheyMatch : Obligations.WordsDecodeByTheOneRowTheyMatch := by
  refine ⟨Mnemonic.all.map fun m => (m, m.mask, m.pattern), rfl, fun w => ?_⟩
  simp only [List.forall_mem_map, mem_all, forall_const, ← Mnemonic.selects_iff_and, ne_eq]
  refine ⟨fun m m' h h' => ?_, fun m h => ?_, fun h => ⟨_, decode_of_selects_none h⟩⟩
  · rw [Mnemonic.selects_unique h h']
  · exact ⟨_, decode_of_selects h, mnemonic_withOperands m _ _, withOperands_of_selects h⟩

/-! ### Illegal words (R65) -/

theorem CmdWord.opcAssigned_iff {w : CmdWord} :
    CmdWord.opcAssigned w = true ↔ ∃ m : Mnemonic, CmdWord.opc w = CmdWord.opc m.pattern := by
  simp [CmdWord.opcAssigned, mem_all]

theorem decode_of_opc_unassigned {w : CmdWord} (h : ¬ CmdWord.opcAssigned w = true) :
    decode w = .error .unknownOpcode := by
  have hnone : ∀ m : Mnemonic, ¬ m.selects w = true := fun m hm =>
    h (CmdWord.opcAssigned_iff.2 ⟨m, Mnemonic.opc_of_selects hm⟩)
  rw [decode_of_selects_none hnone, CmdWord.whyIllegal]
  simp [h]

theorem decode_of_rsv_ne_zero {w : CmdWord} (h : CmdWord.rsv w ≠ 0) :
    decode w = .error (CmdWord.whyIllegal w) :=
  decode_of_selects_none fun _ hm => h (Mnemonic.rsv_of_selects hm)

/-- R63: the assigned opcodes lie in four runs. -/
theorem Mnemonic.opc_pattern_range (m : Mnemonic) :
    (CmdWord.opc m.pattern).toNat ≤ 0x05 ∨
    (0x10 ≤ (CmdWord.opc m.pattern).toNat ∧ (CmdWord.opc m.pattern).toNat ≤ 0x13) ∨
    (0x20 ≤ (CmdWord.opc m.pattern).toNat ∧ (CmdWord.opc m.pattern).toNat ≤ 0x23) ∨
    (0x30 ≤ (CmdWord.opc m.pattern).toNat ∧ (CmdWord.opc m.pattern).toNat ≤ 0x32) := by
  cases m <;> decide

/-- A row's pattern has no 1 among the operand bits. -/
theorem Mnemonic.pattern_and_operands (m : Mnemonic) : m.pattern &&& 0x0000FFFFFFFFFFFF = 0 := by
  cases m <;> decide

/-- A word with a row's opcode and a 1 where the row's mask fixes an operand bit is selected by no row. -/
theorem decode_of_operand_bit {m : Mnemonic} {w : CmdWord} (hopc : CmdWord.opc w = CmdWord.opc m.pattern)
    (hrsv : CmdWord.rsv w = 0) (hbit : w &&& m.mask &&& 0x0000FFFFFFFFFFFF ≠ 0) :
    decode w = .error .operandBitNotZero := by
  have hnone : ∀ m' : Mnemonic, ¬ m'.selects w = true := by
    intro m' h'
    obtain rfl : m' = m := opc_pattern_inj ((Mnemonic.opc_of_selects h').symm.trans hopc)
    rw [Mnemonic.selects_iff_and.1 h'] at hbit
    exact hbit m'.pattern_and_operands
  rw [decode_of_selects_none hnone, CmdWord.whyIllegal]
  simp [CmdWord.opcAssigned_iff.2 ⟨m, hopc⟩, hrsv]

end Sys2Proof

namespace Sys2Proof.Machine

/-- Settles O4: each kind of illegal word is selected by no row, and `raise` answers every such word alike. -/
theorem illegalWordsRaiseErrIllegal : Obligations.IllegalWordsRaiseErrIllegal := by
  intro w s
  refine ⟨fun e he => issue_of_decode_error he s, rfl, fun o ho hrange => ?_,
    fun hrsv => ⟨_, decode_of_rsv_ne_zero hrsv⟩, fun m hopc hrsv hbit => decode_of_operand_bit hopc hrsv hbit⟩
  refine decode_of_opc_unassigned fun hassigned => ?_
  obtain ⟨m, hm⟩ := CmdWord.opcAssigned_iff.1 hassigned
  have hopc : o = (CmdWord.opc m.pattern).toNat := ho.trans (congrArg BitVec.toNat hm)
  have hassignedRange := m.opc_pattern_range
  omega

/-- Settles O5, by running the decoder on each word. -/
theorem wordsOfTheSpecDecode : Obligations.WordsOfTheSpecDecode := by
  unfold Obligations.WordsOfTheSpecDecode
  decide

/-! ### LOADFRAME (R67) -/

theorem runCommands_append {cs : List (CmdWord × Clock)} {s t : State} (h : runCommands cs s = .next t)
    (ds : List (CmdWord × Clock)) : runCommands (cs ++ ds) s = runCommands ds t := by
  induction cs generalizing s with
  | nil =>
    obtain rfl : s = t := Host.Outcome.next.inj h
    rfl
  | cons c cs ih =>
    obtain ⟨u, hu⟩ := issue_completes c.1 { s with now := c.2 }
    rw [runCommands_cons hu] at h
    exact (runCommands_cons hu (cs ++ ds)).trans (ih h)

/-- The program of a list of commands: each issued in its encoding at the clock value `t` (R68). -/
def programAt (t : Clock) (is : List Instr) : List (CmdWord × Clock) := is.map fun i => (encode i, t)

/-- The state after a command answered `OK` with `d` and the host took the response (R31). -/
def State.okTaken (s : State) (d : Word) : State :=
  { s with rsp := none, delivered := s.delivered ++ [⟨.ok, d⟩] }

/-- A well-formed command that answers `OK`, run by its word, then the commands after it. -/
theorem runCommands_of_exec_ok {i : Instr} {s u : State} {d : Word} (hi : i.wellFormed = true)
    (hx : exec i s = respond d u) (is : List Instr) :
    runCommands (programAt s.now (i :: is)) s = runCommands (programAt s.now is) (u.okTaken d) :=
  runCommands_cons (c := (encode i, s.now)) (s := s)
    ((issue_of_decode_ok (decodeOfEncodeIsTheCommand i hi) s).trans hx) (programAt s.now is)

theorem exec_fbwr_of_fbHas {s : State} {a : Nat} (h : s.FbHas a) (b : Byte) :
    exec (.fbwr a b) s = respond 0 (s.writeByte a b) := if_pos h

theorem exec_regwr_flen_of_le {s : State} {v : Word} (h : v.toNat ≤ s.par.fbSize) :
    exec (.regwr 3 v) s = respond 0 { s with flen := v.setWidth 17 } := by
  simp [exec, execRegwr, Reg.ofNumber?, State.writeReg, h]

/-- `t` is `s` with the bytes `bs` at `FB[addr ..]`, the response port and the responses delivered apart. -/
structure BytesLoaded (addr : Nat) (bs : List Byte) (s t : State) : Prop where
  loaded : ∀ k (h : k < bs.length), t.readByte (addr + k) = bs[k]
  others : ∀ a, a < addr ∨ addr + bs.length ≤ a → t.readByte a = s.readByte a
  frame  : ∃ m r ds, t = { s with fb := m, rsp := r, delivered := ds }

theorem BytesLoaded.nil (addr : Nat) (s : State) : BytesLoaded addr [] s s := ⟨nofun, fun _ _ => rfl, _, _, _, rfl⟩

/-- One byte written and taken, then the others above it. -/
theorem BytesLoaded.cons {addr : Nat} {b : Byte} {bs : List Byte} {s t : State} {d : Word}
    (h : BytesLoaded (addr + 1) bs ((s.writeByte addr b).okTaken d) t) : BytesLoaded addr (b :: bs) s t := by
  obtain ⟨hloaded, hothers, hframe⟩ := h
  have hbyte : ∀ x, ((s.writeByte addr b).okTaken d).readByte x = if x = addr then b else s.readByte x :=
    s.readByte_writeByte addr b
  refine ⟨fun k hk => ?_, fun a ha => ?_, hframe⟩
  · cases k with
    | zero => exact (hothers addr (.inl (by omega))).trans ((hbyte addr).trans (if_pos rfl))
    | succ k =>
      rw [show addr + (k + 1) = addr + 1 + k by omega]
      exact hloaded k (Nat.lt_of_succ_lt_succ hk)
  · rw [List.length_cons] at ha
    exact (hothers a (by omega)).trans ((hbyte a).trans (if_neg (by omega)))

/-- R67: `LOADB` writes its bytes at rising addresses. -/
theorem runCommands_loadBytes (bs : List Byte) {addr : Nat} {s : State} (hsize : s.par.fbSize ≤ 65536)
    (hfit : addr + bs.length ≤ s.par.fbSize) :
    ∃ t, runCommands (programAt s.now (loadBytes addr bs)) s = .next t ∧ BytesLoaded addr bs s t := by
  induction bs generalizing addr s with
  | nil => exact ⟨s, rfl, .nil addr s⟩
  | cons b bs ih =>
    rw [List.length_cons] at hfit
    have haddr : addr < s.par.fbSize := by omega
    have hwf : (Instr.fbwr addr b).wellFormed = true := decide_eq_true (Nat.lt_of_lt_of_le haddr hsize)
    have hfirst := runCommands_of_exec_ok hwf (exec_fbwr_of_fbHas haddr b) (loadBytes (addr + 1) bs)
    obtain ⟨t, hrest, ht⟩ := ih (addr := addr + 1) (s := (s.writeByte addr b).okTaken 0) hsize
      (show addr + 1 + bs.length ≤ s.par.fbSize by omega)
    exact ⟨t, hfirst.trans hrest, ht.cons⟩

/-- Settles O50: the bytes are loaded from address 0 (`runCommands_loadBytes`), then their count, which R6 and R15 keep
within `FLEN`'s range and its 17 bits, is written to register 3. -/
theorem loadframeLoadsTheFrame : Obligations.LoadframeLoadsTheFrame := by
  intro s bs hpar hlen
  obtain ⟨⟨-, hmax⟩, -⟩ := hpar
  have hsize : s.par.fbSize ≤ 65536 := Nat.add_le_add_right hmax 8
  have hcount : (BitVec.ofNat 32 bs.length).toNat = bs.length := Nat.mod_eq_of_lt (by omega)
  have hwidth : ((BitVec.ofNat 32 bs.length).setWidth 17).toNat = bs.length := by
    rw [BitVec.toNat_setWidth, hcount]
    exact Nat.mod_eq_of_lt (by omega)
  obtain ⟨t, hrun, hloaded, hothers, m, r, ds, rfl⟩ :=
    runCommands_loadBytes bs (addr := 0) hsize ((Nat.zero_add _).trans_le hlen)
  have hflen := runCommands_of_exec_ok (i := .regwr 3 (BitVec.ofNat 32 bs.length)) rfl
    (exec_regwr_flen_of_le (s := { s with fb := m, rsp := r, delivered := ds }) (hcount.trans_le hlen)) []
  refine ⟨State.okTaken { s with
      fb := m, flen := (BitVec.ofNat 32 bs.length).setWidth 17, rsp := r, delivered := ds } 0,
    ?_, hwidth, fun k hk => ?_, fun a ha => hothers a (.inr ((Nat.zero_add _).trans_le ha)), rfl⟩
  · exact (congrArg (runCommands · s) List.map_append).trans ((runCommands_append hrun _).trans hflen)
  · exact (congrArg _ (Nat.zero_add k).symm).trans (hloaded k hk)

end Sys2Proof.Machine

/-! Proofs of the family 40_checksum: the laws of `oc_add16` (O19, O20), `cksum` as a fold and its closed form (O21 to
O23), the checksum commands (O24, O25, O27), and the embedded checksum (O28). -/

namespace Sys2Proof.Machine

/-! ### One's-complement addition (R81, R89) -/

theorem ocAdd16_toNat (a b : Half) : (ocAdd16 a b).toNat =
    if a.toNat + b.toNat > 0xFFFF then a.toNat + b.toNat - 0xFFFF else a.toNat + b.toNat := by
  have ha : a.toNat < 65536 := a.isLt
  have hb : b.toNat < 65536 := b.isLt
  simp only [ocAdd16]
  split <;> rw [BitVec.toNat_ofNat] <;> exact Nat.mod_eq_of_lt (by omega)

/-- Settles O19: the sum, folded or not, fits 16 bits. -/
theorem ocAddSubtractsFFFFWhenTheSumExceedsIt : Obligations.OcAddSubtractsFFFFWhenTheSumExceedsIt := ocAdd16_toNat

/-- An exact sum folded once at the end (R89 (e)): 0 stays 0, any other sum has its representative in
`1 .. 0xFFFF`. -/
def ocFold (n : Nat) : Nat := if n = 0 then 0 else (n - 1) % 0xFFFF + 1

theorem ocFold_succ (n : Nat) : ocFold (n + 1) = n % 0xFFFF + 1 := rfl

theorem ocFold_of_le {n : Nat} (h : n ≤ 0xFFFF) : ocFold n = n := by
  unfold ocFold
  split <;> omega

/-- Folding part of a sum beforehand changes nothing. -/
theorem ocFold_ocFold_add (m n : Nat) : ocFold (ocFold m + n) = ocFold (m + n) := by
  cases m with
  | zero => rfl
  | succ m => rw [ocFold_succ, Nat.add_right_comm, ocFold_succ, Nat.mod_add_mod, Nat.add_right_comm, ocFold_succ]

theorem ocAdd16_toNat_eq_ocFold (a b : Half) : (ocAdd16 a b).toNat = ocFold (a.toNat + b.toNat) := by
  have ha : a.toNat < 65536 := a.isLt
  have hb : b.toNat < 65536 := b.isLt
  rw [ocAdd16_toNat]
  unfold ocFold
  split <;> split <;> omega

theorem ocAdd16_comm (a b : Half) : ocAdd16 a b = ocAdd16 b a := by
  apply BitVec.eq_of_toNat_eq
  rw [ocAdd16_toNat_eq_ocFold, ocAdd16_toNat_eq_ocFold, Nat.add_comm]

/-- Both sides are the fold of the exact sum of the three. -/
theorem ocAdd16_assoc (a b c : Half) : ocAdd16 (ocAdd16 a b) c = ocAdd16 a (ocAdd16 b c) := by
  apply BitVec.eq_of_toNat_eq
  calc (ocAdd16 (ocAdd16 a b) c).toNat
    _ = ocFold (a.toNat + b.toNat + c.toNat) := by
      rw [ocAdd16_toNat_eq_ocFold, ocAdd16_toNat_eq_ocFold, ocFold_ocFold_add]
    _ = ocFold (b.toNat + c.toNat + a.toNat) := by rw [Nat.add_assoc, Nat.add_comm]
    _ = (ocAdd16 (ocAdd16 b c) a).toNat := by
      rw [ocAdd16_toNat_eq_ocFold, ocAdd16_toNat_eq_ocFold, ocFold_ocFold_add]
    _ = (ocAdd16 a (ocAdd16 b c)).toNat := by rw [ocAdd16_comm]

theorem ocAdd16_zero (a : Half) : ocAdd16 a 0 = a := by
  apply BitVec.eq_of_toNat_eq
  rw [ocAdd16_toNat_eq_ocFold]
  exact ocFold_of_le (Nat.le_of_lt_succ a.isLt)

theorem ocAdd16_eq_zero_iff (a b : Half) : ocAdd16 a b = 0 ↔ a = 0 ∧ b = 0 := by
  have hzero : (0 : Half).toNat = 0 := rfl
  simp only [← BitVec.toNat_inj, ocAdd16_toNat, hzero]
  split <;> omega

/-- `0xFFFF` is a second zero: adding it keeps every value but 0. -/
theorem ocAdd16_ffff {a : Half} (h : a ≠ 0) : ocAdd16 a 0xFFFF = a := by
  have hpos : 0 < a.toNat := Nat.pos_of_ne_zero fun h0 => h (BitVec.eq_of_toNat_eq h0)
  apply BitVec.eq_of_toNat_eq
  calc (ocAdd16 a 0xFFFF).toNat
    _ = a.toNat + 0xFFFF - 0xFFFF := (ocAdd16_toNat a 0xFFFF).trans (if_pos (Nat.lt_add_of_pos_left hpos))
    _ = a.toNat := Nat.add_sub_cancel ..

/-- Settles O20: `oc_add16` is the fold of the exact sum (`ocAdd16_toNat_eq_ocFold`). -/
theorem ocAddIsACommutativeMonoidWithTwoZeros : Obligations.OcAddIsACommutativeMonoidWithTwoZeros :=
  ⟨ocAdd16_zero, ocAdd16_eq_zero_iff, fun _ => ocAdd16_ffff, by decide, ocAdd16_comm, ocAdd16_assoc⟩

/-- A sum of words taken one by one is the fold of the exact sum. -/
theorem foldl_ocAdd16_toNat (ws : List Half) (a : Half) :
    (ws.foldl ocAdd16 a).toNat = ocFold (a.toNat + (ws.map BitVec.toNat).sum) := by
  induction ws generalizing a with
  | nil => exact (ocFold_of_le (Nat.le_of_lt_succ a.isLt)).symm
  | cons w ws ih =>
    rw [List.foldl_cons, ih, ocAdd16_toNat_eq_ocFold, ocFold_ocFold_add, List.map_cons, List.sum_cons, Nat.add_assoc]

/-- R89 (d): the order in which words are added does not matter. -/
theorem foldl_ocAdd16_of_perm {ws vs : List Half} (h : ws.Perm vs) (a : Half) :
    ws.foldl ocAdd16 a = vs.foldl ocAdd16 a := by
  apply BitVec.eq_of_toNat_eq
  rw [foldl_ocAdd16_toNat, foldl_ocAdd16_toNat, (h.map _).sum_eq]

/-! ### The checksum as a fold over its words (R82, R89 (e)) -/

/-- The whole words of the first `2 * k` bytes, in increasing address order. -/
def wholeWords (bytes : Nat → Byte) (k : Nat) : List Half :=
  (List.range k).map fun j => be16 (bytes (2 * j)) (bytes (2 * j + 1))

/-- The word a trailing odd byte makes: its high byte. -/
def trailingWord (bytes : Nat → Byte) (n : Nat) : List Half := if n % 2 = 1 then [be16 (bytes (n - 1)) 0] else []

theorem sumWords_eq_foldl (bytes : Nat → Byte) (k : Nat) :
    sumWords bytes k = (wholeWords bytes k).foldl ocAdd16 0 := by
  induction k with
  | zero => rfl
  | succ k ih =>
    rw [sumWords, ih, wholeWords, wholeWords, List.range_succ, List.map_append, List.foldl_append]
    rfl

theorem cksum_eq_foldl (bytes : Nat → Byte) (n : Nat) :
    cksum bytes n = (wholeWords bytes (n / 2) ++ trailingWord bytes n).foldl ocAdd16 0 := by
  rw [List.foldl_append, ← sumWords_eq_foldl, cksum, trailingWord]
  split <;> rfl

theorem be16_zero_toNat (b : Byte) : (be16 b 0).toNat = b.toNat * 256 := by
  simp [be16_toNat]

theorem be16_eq_ofNat (b0 b1 : Byte) : be16 b0 b1 = BitVec.ofNat 16 (b0.toNat * 256 + b1.toNat) := by
  rw [← be16_toNat, BitVec.ofNat_toNat, BitVec.setWidth_eq]

theorem be16_zero_eq_ofNat (b : Byte) : be16 b 0 = BitVec.ofNat 16 (b.toNat * 256) := by
  rw [← be16_zero_toNat, BitVec.ofNat_toNat, BitVec.setWidth_eq]

/-- Settles O21: `cksum_eq_foldl`, each word in its numeric form. -/
theorem checksumAddsTheWordsInOrder : Obligations.ChecksumAddsTheWordsInOrder := by
  intro bytes n
  rw [cksum_eq_foldl, wholeWords, trailingWord, be16_zero_eq_ofNat]
  simp only [be16_eq_ofNat]

/-- The exact sum of R89 (e) is the sum of the words. -/
theorem wordSum_eq_sum (bytes : Nat → Byte) (n : Nat) :
    wordSum bytes n = ((wholeWords bytes (n / 2) ++ trailingWord bytes n).map BitVec.toNat).sum := by
  rw [wordSum, wholeWords, trailingWord, List.map_append, List.sum_append, List.map_map]
  congr 1
  · exact congrArg List.sum (List.map_congr_left fun k _ => (be16_toNat _ _).symm)
  · split
    · exact (be16_zero_toNat _).symm
    · rfl

theorem cksum_toNat (bytes : Nat → Byte) (n : Nat) : (cksum bytes n).toNat = ocFold (wordSum bytes n) := by
  rw [cksum_eq_foldl, foldl_ocAdd16_toNat, ← wordSum_eq_sum]
  exact congrArg ocFold (Nat.zero_add _)

/-- Settles O22, by induction on the list of words (`foldl_ocAdd16_toNat`). -/
theorem checksumIsTheSumModuloFFFF : Obligations.ChecksumIsTheSumModuloFFFF := cksum_toNat

/-! ### Trailing zero bytes (R89 (f)) -/

theorem cksum_two_mul (bytes : Nat → Byte) (k : Nat) : cksum bytes (2 * k) = sumWords bytes k := by
  simp [cksum]

theorem cksum_two_mul_add_one (bytes : Nat → Byte) (k : Nat) :
    cksum bytes (2 * k + 1) = ocAdd16 (sumWords bytes k) (be16 (bytes (2 * k)) 0) := by
  have hhalf : (2 * k + 1) / 2 = k := by omega
  simp [cksum, hhalf]

/-- One zero byte more starts a word that is 0, or completes the word of a trailing byte as it was. -/
theorem cksum_succ_of_eq_zero {bytes : Nat → Byte} {n : Nat} (h : bytes n = 0) :
    cksum bytes (n + 1) = cksum bytes n := by
  obtain ⟨k, rfl | rfl⟩ := n.even_or_odd'
  · rw [cksum_two_mul_add_one, cksum_two_mul, h]
    exact ocAdd16_zero _
  · rw [cksum_two_mul_add_one, show 2 * k + 1 + 1 = 2 * (k + 1) by omega, cksum_two_mul, sumWords, h]

/-- Settles O23, by induction on the number of zero bytes. -/
theorem trailingZeroBytesDoNotCount : Obligations.TrailingZeroBytesDoNotCount := by
  intro bytes n k hzero
  induction k with
  | zero => rfl
  | succ k ih =>
    calc cksum bytes (n + (k + 1))
      _ = cksum bytes (n + k) := cksum_succ_of_eq_zero (hzero (n + k) (by omega) (by omega))
      _ = cksum bytes n := ih fun a hle hlt => hzero a hle (by omega)

/-! ### The checksum commands (R84 to R87) -/

theorem respondAcc_eq (v : Half) (s : State) :
    respondAcc v s = .next { s with acc := v, rsp := some ⟨.ok, BitVec.ofNat 32 v.toNat⟩ } := by
  rw [BitVec.ofNat_toNat]
  rfl

theorem exec_csclr (s : State) : exec .csclr s = respond 0 { s with acc := 0 } := rfl

theorem exec_csaddw (w : Half) (s : State) : exec (.csaddw w) s = respondAcc (ocAdd16 s.acc w) s := rfl

theorem exec_csaddb (b : Byte) (s : State) : exec (.csaddb b) s = respondAcc (ocAdd16 s.acc (be16 b 0)) s := rfl

/-- R83, R87: mode 1 takes bytes 4 and 5 as zero, mode 0 no byte. -/
theorem exec_csbuf (mode : ChecksumMode) (s : State) : exec (.csbuf mode) s = respondAcc
    (cksum (fun a => if mode = .masked ∧ (a = 4 ∨ a = 5) then 0 else s.readByte a) s.flen.toNat) s := by
  cases mode with
  | asIs => simp [exec, execCsbuf]
  | masked =>
    have hmask : maskField s.readByte = fun a => if a = 4 ∨ a = 5 then 0 else s.readByte a := rfl
    simp [exec, execCsbuf, cksumMasked, hmask]

/-- Settles O24: `CSADDW` and `CSADDB` answer the sum (`respondAcc_eq`), which is that of `ocAdd16_toNat`. -/
theorem streamingCommandsUpdateAcc : Obligations.StreamingCommandsUpdateAcc := by
  intro s w b
  refine ⟨rfl, ⟨_, (exec_csaddw w s).trans (respondAcc_eq _ s), ocAdd16_toNat s.acc w, rfl⟩,
    ⟨_, (exec_csaddb b s).trans (respondAcc_eq _ s), ?_, rfl⟩⟩
  rw [← be16_zero_toNat]
  exact ocAdd16_toNat s.acc (be16 b 0)

/-- Settles O25: both modes answer one checksum (`exec_csbuf`), which is the new `ACC` (`respondAcc_eq`). -/
theorem csbufSumsTheFrame : Obligations.CsbufSumsTheFrame :=
  fun s mode => ⟨_, (exec_csbuf mode s).trans (respondAcc_eq _ s), rfl, rfl⟩

/-- `CSADDW` of each word, then the commands after it: `ACC` has taken the words one by one. -/
theorem runCommands_csaddw (ws : List Half) (is : List Instr) (s : State) :
    ∃ t, runCommands (programAt s.now (ws.map .csaddw ++ is)) s = runCommands (programAt t.now is) t ∧
      t.acc = ws.foldl ocAdd16 s.acc := by
  induction ws generalizing s with
  | nil => exact ⟨s, rfl, rfl⟩
  | cons w ws ih =>
    obtain ⟨t, hrest, hacc⟩ := ih (State.okTaken { s with acc := ocAdd16 s.acc w } ((ocAdd16 s.acc w).setWidth 32))
    exact ⟨t, (runCommands_of_exec_ok rfl (exec_csaddw w s) _).trans hrest, hacc⟩

/-- The command that adds a trailing odd byte, if there is one (R89 (g)). -/
def trailingCommand (bytes : Nat → Byte) (n : Nat) : List Instr :=
  if n % 2 = 1 then [.csaddb (bytes (n - 1))] else []

theorem runCommands_trailingCommand (bytes : Nat → Byte) (n : Nat) (s : State) :
    ∃ t, runCommands (programAt s.now (trailingCommand bytes n)) s = .next t ∧
      t.acc = (trailingWord bytes n).foldl ocAdd16 s.acc := by
  unfold trailingCommand trailingWord
  split
  · exact ⟨_, runCommands_of_exec_ok rfl (exec_csaddb (bytes (n - 1)) s) [], rfl⟩
  · exact ⟨s, rfl, rfl⟩

/-- Settles O27: the commands run one after the other from `ACC = 0`, and the order of the words does not matter
(`foldl_ocAdd16_of_perm`). -/
theorem streamingEqualsBufferChecksum : Obligations.StreamingEqualsBufferChecksum := by
  intro bytes n ws s hperm
  have hclear := runCommands_of_exec_ok rfl (exec_csclr s) (ws.map .csaddw ++ trailingCommand bytes n)
  obtain ⟨u, hwords, hu⟩ :=
    runCommands_csaddw ws (trailingCommand bytes n) (State.okTaken { s with acc := 0 } 0)
  obtain ⟨t, htrailing, ht⟩ := runCommands_trailingCommand bytes n u
  refine ⟨t, hclear.trans (hwords.trans htrailing), ?_⟩
  calc t.acc
    _ = (trailingWord bytes n).foldl ocAdd16 (ws.foldl ocAdd16 0) := by rw [ht, hu]; rfl
    _ = (trailingWord bytes n).foldl ocAdd16 ((wholeWords bytes (n / 2)).foldl ocAdd16 0) := by
      rw [foldl_ocAdd16_of_perm (vs := wholeWords bytes (n / 2)) hperm]
    _ = cksum bytes n := by rw [cksum_eq_foldl, List.foldl_append]

/-! ### The embedded checksum (R90) -/

/-- An encode command that answers `OK` leaves a frame with its checksum embedded (R105 to R107). -/
theorem framedAs_of_encode_ok {i : Instr} {s t : State} {d : Word} (hi : framesDatagram i = true)
    (hx : exec i s = .next t) (hok : t.rsp = some ⟨.ok, d⟩) : ∃ q f n, FramedAs s t q f n := by
  have hguard := okGuard_of_exec_ok hx hok
  rcases exec_cases hx with ⟨e, rfl⟩ | ⟨d, rfl⟩
  · cases hok
  cases i with
  | encdata plen =>
    have hlen : plen < 65536 := Nat.lt_of_le_of_lt hguard s.mss.isLt
    exact ⟨s.seq, flagData, plen, (s.frame_framedAs s.seq flagData plen hlen).congr rfl rfl rfl rfl⟩
  | encack seq => exact ⟨seq, flagAck, 0, (s.frame_framedAs seq flagAck 0 (by omega)).congr rfl rfl rfl rfl⟩
  | encclose => exact ⟨s.seq, flagClose, 0, (s.frame_framedAs s.seq flagClose 0 (by omega)).congr rfl rfl rfl rfl⟩
  | _ => cases hi

/-- In a frame, the checksum field holds the checksum computed over the frame. -/
theorem FramedAs.frameChecksum_eq_readHalf {s t : State} {q : Word} {f : Half} {n : Nat} (h : FramedAs s t q f n) :
    t.frameChecksum = t.readHalf 4 := by
  have hcomputed : t.frameChecksum = t.acc := by rw [State.frameChecksum, h.flen, ← h.acc]
  have hstored : t.readHalf 4 = t.acc := by rw [State.readHalf, h.byte4, h.byte5, be16_extract]
  exact hcomputed.trans hstored.symm

theorem exec_dec_of_le {s : State} (h : 8 ≤ s.flen.toNat) :
    exec .dec s = respond (s.decoded.rxstat.setWidth 32) s.decoded := if_neg (Nat.not_lt.2 h)

/-- R108: bit 0 of `RXSTAT` is whether the computed checksum is the received one. -/
theorem State.decoded_csumOk (s : State) :
    s.decoded.rxstat.getLsbD 0 = decide (s.frameChecksum = s.readHalf 4) := by
  obtain ⟨hcsum, -⟩ := rxstatOf_fields (s.frameChecksum = s.readHalf 4)
    (lenOk (kindOf s.decoded.rxflag) s.decoded.rxplen s.mss) (kindOf s.decoded.rxflag)
  exact hcsum

/-- Settles O28: the masked checksum does not read bytes 4 and 5, and the frame an encode command leaves has its
checksum in them (`FramedAs.frameChecksum_eq_readHalf`). -/
theorem embeddedChecksumVerifies : Obligations.EmbeddedChecksumVerifies := by
  refine ⟨fun s c _ hc => ?_, fun s t i d hi hx hok => ?_⟩
  · rw [hc]
    refine cksumMasked_congr _ fun a _ h4 h5 => ?_
    rw [State.readByte_writeByte, State.readByte_writeByte, if_neg h5, if_neg h4]
  · obtain ⟨q, f, n, hframe⟩ := framedAs_of_encode_ok hi hx hok
    have hlen : 8 ≤ t.flen.toNat := hframe.flen ▸ Nat.le_add_right 8 n
    refine ⟨_, exec_dec_of_le hlen, ?_⟩
    exact t.decoded_csumOk.trans (decide_eq_true hframe.frameChecksum_eq_readHalf)

end Sys2Proof.Machine

/-! Proofs of the family 41_codec: the successor of `SEQ` (O29), the encode commands (O30 to O32), `DEC` (O33), and a
frame carried from one block to another (O34). -/

namespace Sys2Proof.Machine

/-! ### The successor of `SEQ` (R103) -/

/-- Below a legal `SEQ_MOD` the successor fits 32 bits, so `seqNext` cuts nothing. -/
theorem seqNext_toNat {p : Params} (hp : p.Legal) (q : Word) :
    (seqNext p q).toNat = if q.toNat + 1 ≥ p.seqMod then 0 else q.toNat + 1 := by
  obtain ⟨-, -, hmax⟩ := hp
  unfold seqNext
  split
  · rfl
  · exact (BitVec.toNat_ofNat _ _).trans (Nat.mod_eq_of_lt (by omega))

/-- Settles O29: `SEQ_MOD - 1` is the one legal number whose successor is not the next number. -/
theorem sequenceSuccessorWrapsBelowTheSentinel : Obligations.SequenceSuccessorWrapsBelowTheSentinel := by
  intro p q hp hq
  have hpos : 0 < p.seqMod := by
    obtain ⟨-, hmin, -⟩ := hp
    omega
  have hmod : (seqNext p q).toNat = (q.toNat + 1) % p.seqMod := by
    rw [seqNext_toNat hp]
    split
    · have hlast : q.toNat + 1 = p.seqMod := by omega
      rw [hlast, Nat.mod_self]
    · exact (Nat.mod_eq_of_lt (by omega)).symm
  exact ⟨hmod, hmod.trans_lt (Nat.mod_lt _ hpos)⟩

/-! ### The encode commands (R105 to R107) -/

theorem exec_encdata_of_le {s : State} {plen : Nat} (h : plen ≤ s.mss.toNat) : exec (.encdata plen) s =
    respond s.seq { s.frame s.seq flagData plen with seq := seqNext s.par s.seq } := if_neg (Nat.not_lt.2 h)

theorem exec_encdata_of_lt {s : State} {plen : Nat} (h : s.mss.toNat < plen) :
    exec (.encdata plen) s = raise .len s := if_pos h

theorem exec_encack (q : Word) (s : State) : exec (.encack q) s =
    respond ((s.frame q flagAck 0).acc.setWidth 32) (s.frame q flagAck 0) := rfl

theorem exec_encclose (s : State) : exec .encclose s = respond s.seq (s.frame s.seq flagClose 0) := rfl

theorem framedAs_of_encdata {s t : State} {plen : Nat} (h : plen ≤ s.mss.toNat)
    (hx : exec (.encdata plen) s = .next t) : FramedAs s t s.seq flagData plen := by
  obtain rfl := respond_next.1 ((exec_encdata_of_le h).symm.trans hx)
  exact (s.frame_framedAs s.seq flagData plen (h.trans_lt s.mss.isLt)).congr rfl rfl rfl rfl

theorem framedAs_of_encack {s t : State} {q : Word} (hx : exec (.encack q) s = .next t) :
    FramedAs s t q flagAck 0 := by
  obtain rfl := respond_next.1 ((exec_encack q s).symm.trans hx)
  exact (s.frame_framedAs q flagAck 0 (by omega)).congr rfl rfl rfl rfl

theorem framedAs_of_encclose {s t : State} (hx : exec .encclose s = .next t) :
    FramedAs s t s.seq flagClose 0 := by
  obtain rfl := respond_next.1 ((exec_encclose s).symm.trans hx)
  exact (s.frame_framedAs s.seq flagClose 0 (by omega)).congr rfl rfl rfl rfl

/-- Settles O30: a payload within `MSS` is framed (`framedAs_of_encdata`) and `SEQ` takes its successor
(`seqNext_toNat`); a longer one is refused. -/
theorem encdataFramesAndAdvancesSeq : Obligations.EncdataFramesAndAdvancesSeq := by
  intro s plen hp
  refine ⟨fun h => ?_, fun h => exec_encdata_of_lt h⟩
  have hx := exec_encdata_of_le h
  refine ⟨_, hx, framedAs_of_encdata h hx, seqNext_toNat hp s.seq, ?_⟩
  rw [State.frame_eq]

/-- Settles O31: no operand is refused, and the response is the checksum `frame` leaves in `ACC`. -/
theorem encackFramesItsOperand : Obligations.EncackFramesItsOperand := by
  intro s q
  have hx := exec_encack q s
  refine ⟨_, hx, framedAs_of_encack hx, ?_⟩
  rw [BitVec.ofNat_toNat, State.frame_eq]

/-- Settles O32: the frame carries `SEQ`, which `frame` does not write. -/
theorem enccloseFramesSeq : Obligations.EnccloseFramesSeq := by
  intro s
  have hx := exec_encclose s
  refine ⟨_, hx, framedAs_of_encclose hx, ?_⟩
  rw [State.frame_eq]

/-! ### The decode command (R108) -/

theorem exec_dec_of_lt {s : State} (h : s.flen.toNat < 8) : exec .dec s = raise .len s := if_pos h

theorem be32_toNat (b0 b1 b2 b3 : Byte) : (be32 b0 b1 b2 b3).toNat =
    ((b0.toNat * 256 + b1.toNat) * 256 + b2.toNat) * 256 + b3.toNat := by
  have hlow : (be16 b2 b3).toNat < 2 ^ 16 := (be16 b2 b3).isLt
  rw [be32_eq, BitVec.toNat_append, ← Nat.shiftLeft_add_eq_or_of_lt hlow, Nat.shiftLeft_eq, be16_toNat, be16_toNat]
  omega

/-- R101: each kind with the flag that has it. -/
theorem kindOf_cases (f : Half) :
    (f = 0x5555 ∧ kindOf f = .data) ∨ (f = 0xAAAA ∧ kindOf f = .ack) ∨ (f = 0xFFFF ∧ kindOf f = .close) ∨
      (f ≠ 0x5555 ∧ f ≠ 0xAAAA ∧ f ≠ 0xFFFF ∧ kindOf f = .invalid) := by
  by_cases hdata : f = 0x5555
  · exact .inl ⟨hdata, if_pos hdata⟩
  by_cases hack : f = 0xAAAA
  · exact .inr (.inl ⟨hack, hack ▸ rfl⟩)
  by_cases hclose : f = 0xFFFF
  · exact .inr (.inr (.inl ⟨hclose, hclose ▸ rfl⟩))
  · exact .inr (.inr (.inr ⟨hdata, hack, hclose,
      (if_neg hdata).trans ((if_neg hack).trans (if_neg hclose))⟩))

/-- R101: the code of the kind, by the flag. -/
theorem kindOf_code_toNat (f : Half) : (kindOf f).code.toNat =
    if f = 0x5555 then 1 else if f = 0xAAAA then 2 else if f = 0xFFFF then 3 else 0 := by
  rcases kindOf_cases f with ⟨rfl, -⟩ | ⟨rfl, -⟩ | ⟨rfl, -⟩ | ⟨hdata, hack, hclose, hk⟩
  · rfl
  · rfl
  · rfl
  · rw [hk, if_neg hdata, if_neg hack, if_neg hclose]
    rfl

/-- R108: a DATA payload is at most `MSS` long, an ACK and a CLOSE have none, and no other flag has a legal length. -/
theorem lenOk_kindOf_iff (f plen mss : Half) : lenOk (kindOf f) plen mss = true ↔
    (f = 0x5555 ∧ plen.toNat ≤ mss.toNat) ∨ ((f = 0xAAAA ∨ f = 0xFFFF) ∧ plen = 0) := by
  rcases kindOf_cases f with ⟨rfl, hk⟩ | ⟨rfl, hk⟩ | ⟨rfl, hk⟩ | ⟨hdata, hack, hclose, hk⟩
  · rw [hk]
    simp [lenOk]
  · rw [hk]
    simp [lenOk]
  · rw [hk]
    simp [lenOk]
  · simp only [hk, lenOk, hdata, hack, hclose, false_and, or_self, Bool.false_eq_true]

/-- R20: in a block whose frame lies in its buffer, the payload length fits 16 bits. -/
theorem State.decoded_rxplen_add {s : State} (hp : s.par.Legal) (hmax : s.flen.toNat ≤ s.par.mssMax + 8)
    (hmin : 8 ≤ s.flen.toNat) : s.decoded.rxplen.toNat + 8 = s.flen.toNat := by
  obtain ⟨⟨-, hmss⟩, -⟩ := hp
  rw [State.decoded_rxplen, BitVec.toNat_ofNat, Nat.mod_eq_of_lt (by omega)]
  omega

/-- Settles O33: the fields are those of `decoded`, and the verdict bits those of `rxstatOf`. -/
theorem decParsesAndJudgesTheFrame : Obligations.DecParsesAndJudgesTheFrame := by
  intro s hp hmax
  refine ⟨fun hmin => ?_, fun h => exec_dec_of_lt h⟩
  obtain ⟨hkind, hlen, hvalid⟩ := s.decoded_verdict
  refine ⟨_, exec_dec_of_le hmin, be32_toNat _ _ _ _, be16_toNat _ _, be16_toNat _ _,
    s.decoded_rxplen_add hp hmax hmin, rfl, ?_, ?_, ?_, ?_, ?_⟩
  · exact (Bool.eq_iff_iff.1 s.decoded_csumOk).trans decide_eq_true_iff
  · exact (congrArg BitVec.toNat hkind).trans (kindOf_code_toNat _)
  · exact (Bool.eq_iff_iff.1 hlen).trans (lenOk_kindOf_iff _ _ _)
  · exact (Bool.eq_iff_iff.1 hvalid).trans Bool.and_eq_true_iff
  · rw [BitVec.ofNat_toNat]
    rfl

/-! ### A frame carried from one block to another (R109) -/

/-- `u` is a block right after a `DEC` that found a valid frame: this sequence number, flag, payload length and
checksum in the registers, `RXSTAT` with this verdict as the response. -/
structure DecodedValid (u : State) (q : Word) (f : Half) (n : Nat) (c : Half) : Prop where
  rsp    : u.rsp = some ⟨.ok, (rxstatOf true (kindOf f) true).setWidth 32⟩
  rxseq  : u.rxseq = q
  rxflag : u.rxflag = f
  rxplen : u.rxplen = BitVec.ofNat 16 n
  rxstat : u.rxstat = rxstatOf true (kindOf f) true
  rxcsum : u.rxcsum = u.acc
  acc    : u.acc = c

section

variable {s t b : State} {q : Word} {f : Half} {n : Nat}

/-- The header fields read back from a frame. -/
theorem FramedAs.readWord_seq (h : FramedAs s t q f n) : t.readWord 0 = q := by
  rw [State.readWord, h.byte0, h.byte1, h.byte2, h.byte3, be32_extract]

theorem FramedAs.readHalf_flag (h : FramedAs s t q f n) : t.readHalf 6 = f := by
  rw [State.readHalf, h.byte6, h.byte7, be16_extract]

theorem FramedAs.readHalf_csum (h : FramedAs s t q f n) : t.readHalf 4 = t.acc := by
  rw [State.readHalf, h.byte4, h.byte5, be16_extract]

/-- `DEC` reads the frame only, so it finds in `b` what the encoder of `t` put there; the frame is valid when `b`
takes its length as legal. -/
theorem FramedAs.exec_dec (h : FramedAs s t q f n) (hflen : b.flen = t.flen)
    (hsame : SameBytesBelow t.flen.toNat t b) (hlen : lenOk (kindOf f) (BitVec.ofNat 16 n) b.mss = true) :
    ∃ u, exec .dec b = .next u ∧ DecodedValid u q f n t.acc := by
  have hmin : 8 ≤ t.flen.toNat := h.flen ▸ Nat.le_add_right 8 n
  have hseq : b.readWord 0 = q := (hsame.readWord (by omega)).trans h.readWord_seq
  have hflag : b.readHalf 6 = f := (hsame.readHalf (by omega)).trans h.readHalf_flag
  have hcsum : b.readHalf 4 = t.acc := (hsame.readHalf (by omega)).trans h.readHalf_csum
  have hacc : b.frameChecksum = t.acc :=
    (hsame.frameChecksum hflen le_rfl).trans (h.frameChecksum_eq_readHalf.trans h.readHalf_csum)
  have hplen : b.flen.toNat - 8 = n := by
    rw [hflen, h.flen]
    omega
  have hstat : b.decoded.rxstat = rxstatOf true (kindOf f) true := by
    rw [State.decoded_rxstat, hacc, hcsum, hflag, hplen, hlen, decide_eq_true rfl]
  refine ⟨_, exec_dec_of_le (hflen ▸ hmin), ?_⟩
  exact {
    rsp := by rw [hstat]
    rxseq := hseq
    rxflag := hflag
    rxplen := congrArg (BitVec.ofNat 16) hplen
    rxstat := hstat
    rxcsum := hcsum.trans hacc.symm
    acc := hacc }

end

/-- Settles O34: each encode command that succeeds leaves a frame (`framedAs_of_encdata` and its companions), which
`DEC` judges valid (`FramedAs.exec_dec`) because its length is legal for its flag. -/
theorem encodedFramesDecodeValid : Obligations.EncodedFramesDecodeValid := by
  intro s t b i d hx hok hflen hsame
  refine ⟨?_, ?_, ?_⟩
  · rintro plen rfl hmss
    have hguard : plen ≤ s.mss.toNat := okGuard_of_exec_ok hx hok
    have hplen : (BitVec.ofNat 16 plen).toNat = plen :=
      (BitVec.toNat_ofNat _ _).trans (Nat.mod_eq_of_lt (hmss.trans_lt b.mss.isLt))
    have hd : s.seq = d := by
      obtain rfl := respond_next.1 ((exec_encdata_of_le hguard).symm.trans hx)
      cases hok
      rfl
    obtain ⟨u, hu, h⟩ := (framedAs_of_encdata hguard hx).exec_dec hflen hsame
      (decide_eq_true (hplen.trans_le hmss))
    exact ⟨u, hu, h.rsp, h.rxseq.trans hd, h.rxflag, (congrArg _ h.rxplen).trans hplen, h.rxstat, h.rxcsum, h.acc⟩
  · rintro q rfl
    obtain ⟨u, hu, h⟩ := (framedAs_of_encack hx).exec_dec hflen hsame rfl
    exact ⟨u, hu, h.rsp, h.rxseq, h.rxflag, h.rxplen, h.rxstat, h.rxcsum, h.acc⟩
  · rintro rfl
    obtain ⟨u, hu, h⟩ := (framedAs_of_encclose hx).exec_dec hflen hsame rfl
    exact ⟨u, hu, h.rsp, h.rxseq, h.rxflag, h.rxplen, h.rxstat, h.rxcsum, h.acc⟩

end Sys2Proof.Machine

/-! Proofs of the family 42_timer: the timer commands (O35 to O37), the `expired` output (O38), and what a poll answers
after an arm, whatever other commands ran between (O39). -/

namespace Sys2Proof.Machine

/-! ### The comparator (R133) -/

theorem State.reached_iff (s : State) (t : Clock) :
    s.reached t = true ↔ (t.toNat + (2 ^ 64 - s.deadline.toNat)) % 2 ^ 64 < 2 ^ 63 := by
  rw [State.reached, decide_eq_true_iff, BitVec.toNat_sub, Nat.add_comm]

theorem State.expired_iff (s : State) (t : Clock) : s.expired t = true ↔
    s.armed = true ∧ (t.toNat + (2 ^ 64 - s.deadline.toNat)) % 2 ^ 64 < 2 ^ 63 := by
  rw [State.expired, Bool.and_eq_true, s.reached_iff]

/-- R138 (d): with the deadline `tmo` ticks after `t0`, the comparison is exact for every sample the clock's promise
allows, through the wrap of either sum. -/
theorem State.reached_iff_of_clockPromise {s : State} {t0 t : Clock} {tmo : Word} {d : Nat}
    (hdl : s.deadline = t0 + tmo.setWidth 64) (ht : ClockPromise t0 t d) :
    s.reached t = true ↔ tmo.toNat ≤ d := by
  obtain ⟨rfl, hd⟩ := ht
  have htmo : tmo.toNat < 2 ^ 32 := tmo.isLt
  have ht0 : t0.toNat < 2 ^ 64 := t0.isLt
  rw [s.reached_iff, hdl, BitVec.toNat_add, BitVec.toNat_add, BitVec.toNat_ofNat, BitVec.toNat_setWidth]
  omega

/-! ### TMARM and TMSTOP (R132, R134, R135) -/

/-- `TMARM` as an update of the timer. -/
theorem exec_tmarm (s : State) : exec .tmarm s =
    respond ((s.now + s.tmo.setWidth 64).extractLsb' 0 32)
      { s with deadline := s.now + s.tmo.setWidth 64, armed := true } := rfl

/-- R132: the sum of the clock and the zero-extended timeout is taken modulo `2^64`. -/
theorem clock_add_timeout (now : Clock) (tmo : Word) :
    now + tmo.setWidth 64 = BitVec.ofNat 64 ((now.toNat + tmo.toNat) % 2 ^ 64) := by
  apply BitVec.eq_of_toNat_eq
  have htmo : tmo.toNat < 2 ^ 64 := tmo.isLt.trans (by decide)
  rw [BitVec.toNat_add, BitVec.toNat_setWidth, BitVec.toNat_ofNat, Nat.mod_eq_of_lt htmo, Nat.mod_mod]

theorem extractLsb'_low_half_ofNat_mod (n : Nat) :
    (BitVec.ofNat 64 (n % 2 ^ 64)).extractLsb' 0 32 = BitVec.ofNat 32 (n % 2 ^ 32) := by
  apply BitVec.eq_of_toNat_eq
  rw [BitVec.extractLsb'_toNat, BitVec.toNat_ofNat, BitVec.toNat_ofNat, Nat.shiftRight_zero]
  omega

/-- Settles O35: `exec_tmarm` with its sum, and the sum's low half, in plain arithmetic. -/
theorem tmarmSetsTheDeadline : Obligations.TmarmSetsTheDeadline := by
  intro s
  rw [exec_tmarm, clock_add_timeout, extractLsb'_low_half_ofNat_mod]
  rfl

/-- Settles O36: this is how `TMSTOP` is defined. -/
theorem tmstopDisarms : Obligations.TmstopDisarms := fun _ => rfl

/-! ### TMPOLL and the `expired` output (R133, R136) -/

/-- What a poll answers at clock value `t`, by the two cases of R136. -/
def State.pollAnswer (s : State) (t : Clock) : Word :=
  if s.armed = true then (if s.reached t = true then 3 else 2) else 0

theorem exec_tmpoll (s : State) : exec .tmpoll s = respond (s.pollAnswer s.now) s := by
  simp only [exec, execTmpoll, State.expired, State.pollAnswer]
  cases s.armed <;> cases s.reached s.now <;> rfl

theorem State.pollAnswer_of_idle {s : State} (h : s.armed = false) (t : Clock) : s.pollAnswer t = 0 :=
  if_neg (Bool.not_eq_true _ ▸ h)

theorem State.pollAnswer_of_armed {s : State} (h : s.armed = true) (t : Clock) :
    s.pollAnswer t = if s.reached t = true then 3 else 2 :=
  if_pos h

theorem State.pollAnswer_getLsbD_zero (s : State) (t : Clock) : (s.pollAnswer t).getLsbD 0 = s.expired t := by
  unfold State.pollAnswer State.expired
  cases s.armed <;> cases s.reached t <;> rfl

/-- Settles O37: the answer of `exec_tmpoll` with the comparator in plain arithmetic (`State.reached_iff`). -/
theorem tmpollAnswersTheComparator : Obligations.TmpollAnswersTheComparator := by
  intro s
  simp only [exec_tmpoll, State.pollAnswer, s.reached_iff]
  rfl

/-- Settles O38: the output is `State.expired` at the clock shown, which is also bit 0 of a poll's answer. -/
theorem expiredOutputIsWhatTmpollReports : Obligations.ExpiredOutputIsWhatTmpollReports :=
  fun s p => ⟨s.expired_iff p.now, _, _, exec_tmpoll { s with now := p.now }, rfl, State.pollAnswer_getLsbD_zero _ _⟩

/-! ### The timer between an arm and a poll (R138) -/

theorem issue_tmarm (s : State) : ∃ t, issue (encode .tmarm) s = .next t ∧
    t.armed = true ∧ t.deadline = s.now + s.tmo.setWidth 64 :=
  ⟨_, (issue_of_decode_ok (decodeOfEncodeIsTheCommand .tmarm rfl) s).trans (exec_tmarm s), rfl, rfl⟩

theorem issue_tmpoll {s : State} {d : Word} (h : s.pollAnswer s.now = d) :
    ∃ t, issue (encode .tmpoll) s = .next t ∧ t.rsp = some ⟨.ok, d⟩ := by
  subst h
  exact ⟨_, (issue_of_decode_ok (decodeOfEncodeIsTheCommand .tmpoll rfl) s).trans (exec_tmpoll s), rfl⟩

/-- R137, R138 (c): no command word but `TMARM`, `TMSTOP` and `SRST` changes `ARMED` or `DEADLINE`. -/
theorem issue_keeps_timer {w : CmdWord} {s t : State} (h : issue w s = .next t)
    (hw : decode w ≠ .ok .tmarm ∧ decode w ≠ .ok .tmstop ∧ decode w ≠ .ok .srst) :
    t.armed = s.armed ∧ t.deadline = s.deadline := by
  obtain ⟨harm, hstop, hsrst⟩ := hw
  cases hd : decode w with
  | error e =>
    rw [raise_next.1 ((issue_of_decode_error hd s).symm.trans h)]
    exact ⟨rfl, rfl⟩
  | ok i =>
    obtain ⟨-, -, -, -, -, -, -, harmed, hdl, -⟩ :=
      registersChangeOnlyByTheirCommands i s t ((issue_of_decode_ok hd s).symm.trans h)
    constructor
    · by_contra hchanged
      rcases harmed hchanged with rfl | rfl | rfl
      exacts [hsrst hd, harm hd, hstop hd]
    · by_contra hchanged
      rcases hdl hchanged with rfl | rfl
      exacts [hsrst hd, harm hd]

/-- A list of such command words completes and leaves the timer as it was. -/
theorem runCommands_keeps_timer (cs : List (CmdWord × Clock)) (s : State)
    (hcs : ∀ c ∈ cs, decode c.1 ≠ .ok .tmarm ∧ decode c.1 ≠ .ok .tmstop ∧ decode c.1 ≠ .ok .srst) :
    ∃ u, runCommands cs s = .next u ∧ u.armed = s.armed ∧ u.deadline = s.deadline := by
  induction cs generalizing s with
  | nil => exact ⟨s, rfl, rfl, rfl⟩
  | cons c cs ih =>
    obtain ⟨hc, hcs⟩ := List.forall_mem_cons.1 hcs
    obtain ⟨t, ht⟩ := issue_completes c.1 { s with now := c.2 }
    obtain ⟨harmed, hdl⟩ := issue_keeps_timer ht hc
    obtain ⟨u, hrun, huarmed, hudl⟩ := ih t.deliver hcs
    exact ⟨u, (runCommands_cons ht cs).trans hrun, (huarmed.trans t.deliver_armed).trans harmed,
      (hudl.trans t.deliver_deadline).trans hdl⟩

/-- R138 (a): the answer of an armed timer at a clock value that keeps the promise. -/
theorem State.pollAnswer_of_clockPromise {s : State} {t0 t : Clock} {tmo : Word} {d : Nat} (harmed : s.armed = true)
    (hdl : s.deadline = t0 + tmo.setWidth 64) (ht : ClockPromise t0 t d) :
    s.pollAnswer t = if tmo.toNat ≤ d then 3 else 2 := by
  simp only [State.pollAnswer_of_armed harmed, State.reached_iff_of_clockPromise hdl ht]

/-- Settles O39: the commands between keep the timer that `TMARM` set (`runCommands_keeps_timer`), and under the clock's
promise its comparator is exact (`State.pollAnswer_of_clockPromise`). -/
theorem pollAfterArmExpiresAtTheTimeout : Obligations.PollAfterArmExpiresAtTheTimeout := by
  refine ⟨fun s t0 cs hcs => ?_, fun s hidle => issue_tmpoll (State.pollAnswer_of_idle hidle s.now)⟩
  obtain ⟨a, ha, harmed, hdl⟩ := issue_tmarm { s with now := t0 }
  obtain ⟨u, hrun, huarmed, hudl⟩ := runCommands_keeps_timer cs a.deliver hcs
  rw [State.deliver_armed, harmed] at huarmed
  rw [State.deliver_deadline, hdl] at hudl
  exact ⟨u, (runCommands_cons (c := (encode .tmarm, t0)) ha cs).trans hrun,
    fun t _ ht => issue_tmpoll (s := { u with now := t }) (State.pollAnswer_of_clockPromise huarmed hudl ht)⟩

end Sys2Proof.Machine

/-! Proofs of the family 43_access_control: `NOP` and `SRST` (O11, O17), the register commands `REGRD` and `REGWR` (O12,
O14), and the buffer commands `FBRD` and `FBWR` (O15, O16). -/

namespace Sys2Proof.Machine

/-! ### NOP and SRST (R150, R156) -/

theorem exec_nop (s : State) : exec .nop s = respond 0 s := rfl

theorem exec_srst (s : State) : exec .srst s = respond 0 s.resetRegisters := rfl

/-- Settles O11: `exec_nop`, with `respond` written out. -/
theorem nopChangesNothing : Obligations.NopChangesNothing := exec_nop

/-- Settles O17: `exec_srst`, with the reset values of R32 written out. -/
theorem softResetResetsTheRegisters : Obligations.SoftResetResetsTheRegisters := exec_srst

/-! ### Register numbers (R11) -/

theorem Reg.ofNumber?_of_le {n : Nat} (h : 15 ≤ n) : Reg.ofNumber? n = none := by
  obtain ⟨k, rfl⟩ := Nat.exists_eq_add_of_le' h
  rfl

/-! ### REGRD (R152) -/

theorem exec_regrd_of_some {n : Nat} {r : Reg} (hr : Reg.ofNumber? n = some r) (s : State) :
    exec (.regrd n) s = respond (s.readReg r) s := by
  simp only [exec, execRegrd, hr]

theorem exec_regrd_of_none {n : Nat} (hn : Reg.ofNumber? n = none) (s : State) :
    exec (.regrd n) s = raise .addr s := by
  simp only [exec, execRegrd, hn]

/-- A register read zero-extended (R11) answers its value as a number, whatever its width. -/
theorem exec_regrd_of_setWidth {n w : Nat} {r : Reg} {s : State} {x : BitVec w} (hr : Reg.ofNumber? n = some r)
    (hx : s.readReg r = x.setWidth 32) : exec (.regrd n) s = respond (BitVec.ofNat 32 x.toNat) s := by
  rw [exec_regrd_of_some hr, hx, BitVec.ofNat_toNat]

/-- R23: `TMCTL` is `ARMED` in bit 0. -/
theorem exec_regrd_tmctl (s : State) :
    exec (.regrd 12) s = respond (BitVec.ofNat 32 (if s.armed then 1 else 0)) s := by
  rw [exec_regrd_of_some (r := .tmctl) rfl, State.readReg]
  cases s.armed <;> rfl

/-- R24: `DLLO` is the low half of `DEADLINE`. -/
theorem exec_regrd_dllo (s : State) :
    exec (.regrd 13) s = respond (BitVec.ofNat 32 (s.deadline.toNat % 2 ^ 32)) s := by
  rw [exec_regrd_of_some (r := .dllo) rfl, State.readReg, ← extractLsb'_low_half_ofNat_mod,
    Nat.mod_eq_of_lt s.deadline.isLt, BitVec.ofNat_toNat, BitVec.setWidth_eq]

/-- R24: `DLHI` is the high half of `DEADLINE`. -/
theorem exec_regrd_dlhi (s : State) :
    exec (.regrd 14) s = respond (BitVec.ofNat 32 (s.deadline.toNat / 2 ^ 32)) s := by
  rw [exec_regrd_of_some (r := .dlhi) rfl, State.readReg, BitVec.extractLsb', Nat.shiftRight_eq_div_pow]

/-- Settles O12: a number below 15 names a register, read row by row; one from 15 on names none
(`Reg.ofNumber?_of_le`). -/
theorem registerReadsAnswerTheMap : Obligations.RegisterReadsAnswerTheMap := by
  refine fun s => ⟨fun n v hrow => ?_, fun n hn => exec_regrd_of_none (Reg.ofNumber?_of_le hn) s⟩
  simp only [List.mem_cons, List.not_mem_nil, or_false, Prod.mk.injEq] at hrow
  rcases hrow with ⟨rfl, rfl⟩ | ⟨rfl, rfl⟩ | ⟨rfl, rfl⟩ | ⟨rfl, rfl⟩ | ⟨rfl, rfl⟩ | ⟨rfl, rfl⟩ | ⟨rfl, rfl⟩ |
    ⟨rfl, rfl⟩ | ⟨rfl, rfl⟩ | ⟨rfl, rfl⟩ | ⟨rfl, rfl⟩ | ⟨rfl, rfl⟩ | ⟨rfl, rfl⟩ | ⟨rfl, rfl⟩ | ⟨rfl, rfl⟩
  · exact exec_regrd_of_some (r := .id) rfl s
  · exact exec_regrd_of_setWidth (r := .errs) rfl rfl
  · exact exec_regrd_of_setWidth (r := .mss) rfl rfl
  · exact exec_regrd_of_setWidth (r := .flen) rfl rfl
  · exact exec_regrd_of_setWidth (r := .seq) rfl (BitVec.setWidth_eq _).symm
  · exact exec_regrd_of_setWidth (r := .acc) rfl rfl
  · exact exec_regrd_of_setWidth (r := .rxseq) rfl (BitVec.setWidth_eq _).symm
  · exact exec_regrd_of_setWidth (r := .rxcsum) rfl rfl
  · exact exec_regrd_of_setWidth (r := .rxflag) rfl rfl
  · exact exec_regrd_of_setWidth (r := .rxplen) rfl rfl
  · exact exec_regrd_of_setWidth (r := .rxstat) rfl rfl
  · exact exec_regrd_of_setWidth (r := .tmo) rfl (BitVec.setWidth_eq _).symm
  · exact exec_regrd_tmctl s
  · exact exec_regrd_dllo s
  · exact exec_regrd_dlhi s

/-! ### REGWR (R153) -/

theorem exec_regwr_of_none {n : Nat} (hn : Reg.ofNumber? n = none) (v : Word) (s : State) :
    exec (.regwr n v) s = raise .addr s := by
  simp only [exec, execRegwr, hn]

theorem exec_regwr_of_error {n : Nat} {r : Reg} {v : Word} {s : State} {e : ErrCode}
    (hr : Reg.ofNumber? n = some r) (hw : s.writeReg r v = .error e) : exec (.regwr n v) s = raise e s := by
  simp only [exec, execRegwr, hr, hw]

theorem exec_regwr_of_ok {n : Nat} {r : Reg} {v : Word} {s t : State}
    (hr : Reg.ofNumber? n = some r) (hw : s.writeReg r v = .ok t) : exec (.regwr n v) s = respond 0 t := by
  simp only [exec, execRegwr, hr, hw]

/-- Only four registers are writable (R11, R153). -/
theorem State.writeReg_readOnly {r : Reg} (h : r ∉ [Reg.mss, .flen, .seq, .tmo]) (s : State) (v : Word) :
    s.writeReg r v = .error .ro := by
  cases r with
  | mss | flen | seq | tmo => exact absurd h (by decide)
  | _ => rfl

/-- The numbers of the registers that are not writable. -/
theorem Reg.ofNumber?_readOnly : ∀ n ∈ [0, 1, 5, 6, 7, 8, 9, 10, 12, 13, 14],
    ∃ r, Reg.ofNumber? n = some r ∧ r ∉ [Reg.mss, .flen, .seq, .tmo] := by
  simp [Reg.ofNumber?]

/-- Settles O14: the number is absent, names a register that is not writable (`State.writeReg_readOnly`), or names one
of the four others, whose range check decides. -/
theorem registerWritesCheckThenWriteOne : Obligations.RegisterWritesCheckThenWriteOne := by
  rintro s n v ⟨⟨-, hmax⟩, hmod, -⟩
  refine ⟨fun hn => ?_, fun hn => ?_, ?_, ?_, ?_, ?_, ?_⟩
  · exact exec_regwr_of_none (Reg.ofNumber?_of_le hn) v s
  · obtain ⟨r, hr, hro⟩ := Reg.ofNumber?_readOnly n hn
    exact exec_regwr_of_error hr (s.writeReg_readOnly hro v)
  · rintro (⟨rfl, hv⟩ | ⟨rfl, hv⟩ | ⟨rfl, hv⟩)
    · exact exec_regwr_of_error (r := .mss) rfl (if_neg hv)
    · exact exec_regwr_of_error (r := .flen) rfl (if_neg (Nat.not_le.2 hv))
    · exact exec_regwr_of_error (r := .seq) rfl (if_neg (by omega))
  · rintro rfl hpos hle
    exact ⟨_, exec_regwr_of_ok (r := .mss) rfl (if_pos ⟨hpos, hle⟩),
      (BitVec.toNat_setWidth ..).trans (Nat.mod_eq_of_lt (by omega)), rfl⟩
  · rintro rfl hle
    exact ⟨_, exec_regwr_flen_of_le hle, (BitVec.toNat_setWidth ..).trans (Nat.mod_eq_of_lt (by omega)), rfl⟩
  · rintro rfl hlt
    exact exec_regwr_of_ok (r := .seq) rfl (if_pos (by omega))
  · rintro rfl
    exact exec_regwr_of_ok (r := .tmo) rfl rfl

/-! ### FBRD and FBWR (R154, R155) -/

theorem exec_fbrd_of_fbHas {s : State} {a : Nat} (h : s.FbHas a) :
    exec (.fbrd a) s = respond (BitVec.ofNat 32 (s.readByte a).toNat) s :=
  (if_pos h).trans (congrArg (respond · s) (BitVec.ofNat_toNat ..).symm)

theorem exec_fbrd_of_not_fbHas {s : State} {a : Nat} (h : ¬ s.FbHas a) : exec (.fbrd a) s = raise .addr s := if_neg h

theorem exec_fbwr_of_not_fbHas {s : State} {a : Nat} (h : ¬ s.FbHas a) (b : Byte) :
    exec (.fbwr a b) s = raise .addr s := if_neg h

/-- Settles O15: `FBRD` on either side of the bound of R45. -/
theorem bufferReadAnswersTheByte : Obligations.BufferReadAnswersTheByte :=
  fun _ _ => ⟨exec_fbrd_of_fbHas, fun ha => exec_fbrd_of_not_fbHas (Nat.not_lt.2 ha)⟩

/-- Settles O16: within the buffer `FBWR` is `writeByte`, whose bytes read as `State.readByte_writeByte` says. -/
theorem bufferWriteWritesOneByte : Obligations.BufferWriteWritesOneByte := by
  refine fun s a b => ⟨fun ha => ?_, fun ha => exec_fbwr_of_not_fbHas (Nat.not_lt.2 ha) b⟩
  exact ⟨_, exec_fbwr_of_fbHas ha b, (s.readByte_writeByte a b a).trans (if_pos rfl),
    fun x hx => (s.readByte_writeByte a b x).trans (if_neg hx), rfl⟩

end Sys2Proof.Machine

/-! Proofs of the family 60_exceptions: every command and every step completes (O43), a refused command changes its bit
of `ERRS` alone (O41), the command after it runs as after `NOP` (O42), and which command raises which error (O40). -/

namespace Sys2Proof.Machine

/-! ### Every command and every step completes (R175) -/

theorem exec_completes (i : Instr) (s : State) : ∃ t r, exec i s = .next t ∧ t.rsp = some r := by
  rcases exec_outcome i s with ⟨e, he⟩ | ⟨d, hd⟩
  · exact ⟨_, _, he, rfl⟩
  · exact ⟨_, _, hd, rfl⟩

/-- Whatever the inputs, serving them answers a next state: only the branch that issues a command can do anything but
update the state. -/
theorem serve_completes (p : PortIn) (s : State) : ∃ t, serve p s = .next t := by
  unfold serve
  split
  · exact ⟨_, rfl⟩
  · split
    · exact ⟨_, rfl⟩
    · split
      · exact issue_completes _ s
      · exact ⟨_, rfl⟩

/-- Settles O43: a word completes (`issue_completes`) with one response (`issue_response`), and a step serves its inputs
(`serve_completes`), if there are any. -/
theorem everyCommandAndEveryStepCompletes : Obligations.EveryCommandAndEveryStepCompletes := by
  refine ⟨fun w s => ?_, exec_completes, fun s => ?_⟩
  · obtain ⟨t, ht⟩ := issue_completes w s
    obtain ⟨r, hr, -⟩ := issue_response ht
    exact ⟨t, r, ht, hr⟩
  · cases hin : s.inputs with
    | nil => exact ⟨s, step_of_inputs_nil hin⟩
    | cons p ps =>
      rw [step_of_inputs_cons hin]
      exact serve_completes p _

/-! ### What a refused command changes (R172) -/

/-- R172: a command word that answers an error has changed the error's bit of `ERRS` and the response, nothing else. -/
theorem issue_of_err {w : CmdWord} {s t : State} {e : ErrCode} {d : Word} (h : issue w s = .next t)
    (hrsp : t.rsp = some ⟨.err e, d⟩) :
    d = 0 ∧ t = { s with errs := s.errs ||| e.bit, rsp := some ⟨.err e, 0⟩ } := by
  rcases issue_cases h with ⟨e', rfl⟩ | ⟨i, d', -, rfl⟩
  · cases hrsp
    exact ⟨rfl, rfl⟩
  · cases hrsp

/-- The word 0 is `NOP` (R63, R150). -/
theorem issue_zero (s : State) : issue 0 s = respond 0 s :=
  (issue_of_decode_ok (i := .nop) (by decide) s).trans (exec_nop s)

/-- Settles O41: `issue_of_err`, with the bit of the error written out, and `issue_zero`. -/
theorem refusedCommandsChangeOnlyTheirErrorBit : Obligations.RefusedCommandsChangeOnlyTheirErrorBit :=
  ⟨fun _ _ _ _ _ => issue_of_err, fun s => ⟨_, issue_zero s, rfl⟩⟩

/-! ### The command after a refused command (R174) -/

/-- The same block with the bits of `m` set in `ERRS` too, and presenting `r`. -/
def State.recording (s : State) (m : BitVec 6) (r : Option Response) : State :=
  { s with errs := s.errs ||| m, rsp := r }

/-- The same bits of `ERRS` set, the response as it is. -/
def State.withErrBits (m : BitVec 6) (s : State) : State := s.recording m s.rsp

theorem respond_recording (d : Word) (s : State) (m : BitVec 6) (r : Option Response) :
    respond d (s.recording m r) = mapNext (State.withErrBits m) (respond d s) := rfl

/-- Setting bits of `ERRS` before a refusal is setting them after it. -/
theorem raise_recording (e : ErrCode) (s : State) (m : BitVec 6) (r : Option Response) :
    raise e (s.recording m r) = mapNext (State.withErrBits m) (raise e s) := by
  have hbits : s.errs ||| m ||| e.bit = s.errs ||| e.bit ||| m := by ac_rfl
  simp only [raise, mapNext, State.withErrBits, State.recording, hbits]

/-- R152: `ERRS` is read as register 1 only. -/
theorem State.readReg_recording {x : Reg} (hx : x ≠ .errs) (s : State) (m : BitVec 6) (r : Option Response) :
    (s.recording m r).readReg x = s.readReg x := by
  cases x with
  | errs => exact absurd rfl hx
  | _ => rfl

theorem State.writeReg_recording (s : State) (m : BitVec 6) (r : Option Response) (x : Reg) (v : Word) :
    (s.recording m r).writeReg x v = (s.writeReg x v).map (State.recording · m r) := by
  cases x with
  | mss | flen | seq =>
    simp only [State.writeReg, apply_ite (Except.map _)]
    rfl
  | _ => rfl

/-- A frame is built from the bytes of the buffer and the command's operands. -/
theorem State.frame_recording (s : State) (m : BitVec 6) (r : Option Response) (q : Word) (f : Half) (n : Nat) :
    (s.recording m r).frame q f n = (s.frame q f n).recording m r := rfl

/-- No command but `REGRD ERRS` reads `ERRS` or the response presented, and none but `SRST` clears a bit of `ERRS`. -/
theorem exec_recording {i : Instr} (hsrst : i ≠ .srst) (herrs : i ≠ .regrd 1) (s : State) (m : BitVec 6)
    (r : Option Response) : exec i (s.recording m r) = mapNext (State.withErrBits m) (exec i s) := by
  cases i with
  | srst => exact absurd rfl hsrst
  | regrd reg =>
    simp only [exec, execRegrd]
    cases hx : Reg.ofNumber? reg with
    | none => exact raise_recording _ s m r
    | some x =>
      have hne : x ≠ .errs := fun he => herrs (by rw [Reg.number_of_ofNumber? hx, he]; rfl)
      simp only [State.readReg_recording hne, respond_recording]
  | regwr reg v =>
    simp only [exec, execRegwr]
    cases Reg.ofNumber? reg with
    | none => exact raise_recording _ s m r
    | some x =>
      simp only [State.writeReg_recording]
      cases s.writeReg x v with
      | error e => exact raise_recording e s m r
      | ok t => exact respond_recording 0 t m r
  | fbrd addr =>
    simp only [exec, execFbrd, apply_ite (mapNext _), raise_recording]
    rfl
  | fbwr addr byte =>
    simp only [exec, execFbwr, apply_ite (mapNext _), raise_recording]
    rfl
  | encdata plen =>
    simp only [exec, execEncdata, State.frame_recording, apply_ite (mapNext _), raise_recording]
    rfl
  | encack q =>
    simp only [exec, execEncack, State.frame_recording]
    rfl
  | encclose =>
    simp only [exec, execEncclose, State.frame_recording]
    rfl
  | dec =>
    simp only [exec, execDec, apply_ite (mapNext _), raise_recording]
    rfl
  | csbuf mode => cases mode <;> rfl
  | nop | csclr | csaddw _ | csaddb _ | tmarm | tmstop | tmpoll => rfl

theorem issue_recording {w : CmdWord} (hsrst : decode w ≠ .ok .srst) (herrs : decode w ≠ .ok (.regrd 1)) (s : State)
    (m : BitVec 6) (r : Option Response) :
    issue w (s.recording m r) = mapNext (State.withErrBits m) (issue w s) := by
  cases hd : decode w with
  | ok i =>
    rw [issue_of_decode_ok hd, issue_of_decode_ok hd]
    exact exec_recording (fun hi => hsrst (hi ▸ hd)) (fun hi => herrs (hi ▸ hd)) s m r
  | error e =>
    rw [issue_of_decode_error hd, issue_of_decode_error hd]
    exact raise_recording .illegal s m r

/-- Settles O42: after the refusal the block is the block after `NOP`, `recording` the error's bit, and the commands that
can tell the two apart are `SRST` and the read of `ERRS` (`issue_recording`). -/
theorem commandAfterRefusalRunsAsAfterNop : Obligations.CommandAfterRefusalRunsAsAfterNop := by
  intro w w' s t u t' u' e d ht hrsp hu ht' hu'
  obtain ⟨-, rfl⟩ := issue_of_err ht hrsp
  obtain rfl := respond_next.1 ((issue_zero s).symm.trans hu)
  by_cases hsrst : decode w' = .ok .srst
  · rw [issue_of_decode_ok hsrst] at ht' hu'
    obtain rfl := respond_next.1 ht'
    obtain rfl := respond_next.1 hu'
    exact ⟨rfl, fun h => absurd hsrst h, fun _ => rfl, fun _ => rfl⟩
  by_cases herrs : decode w' = .ok (.regrd 1)
  · rw [issue_of_decode_ok herrs] at ht' hu'
    obtain rfl := respond_next.1 ht'
    obtain rfl := respond_next.1 hu'
    exact ⟨rfl, fun _ => rfl, fun h => absurd h hsrst, fun h => absurd herrs h⟩
  have hboth := issue_recording hsrst herrs { s with rsp := some ⟨.ok, 0⟩ } e.bit (some ⟨.err e, 0⟩)
  rw [hu'] at hboth
  cases ht'.symm.trans hboth
  exact ⟨rfl, fun _ => rfl, fun h => absurd h hsrst, fun _ => rfl⟩

/-! ### Which command raises which error (R170) -/

theorem raise_eq_raise_iff {e e' : ErrCode} {s : State} : raise e s = raise e' s ↔ e' = e := by
  refine ⟨fun h => ?_, fun h => h ▸ rfl⟩
  cases congrArg State.rsp (raise_next.1 h)
  rfl

theorem respond_ne_raise {d : Word} {s t : State} {e : ErrCode} : respond d t ≠ raise e s := fun h =>
  nomatch congrArg State.rsp (raise_next.1 h.symm)

/-- A command with one check raises the error of that check exactly when the check fails. -/
theorem ite_raise_respond_iff {c : Prop} [Decidable c] {d : Word} {e e' : ErrCode} {s t : State} :
    (if c then raise e s else respond d t) = raise e' s ↔ e' = e ∧ c := by
  split
  · simp [raise_eq_raise_iff, *]
  · simp [respond_ne_raise, *]

theorem ite_respond_raise_iff {c : Prop} [Decidable c] {d : Word} {e e' : ErrCode} {s t : State} :
    (if c then respond d t else raise e s) = raise e' s ↔ e' = e ∧ ¬ c := by
  rw [← ite_not]
  exact ite_raise_respond_iff

/-- R170: the causes of each error, command by command; the commands not listed answer no error. -/
def RefusedWith (i : Instr) (s : State) (e : ErrCode) : Prop :=
  match i with
  | .regrd n => e = .addr ∧ 15 ≤ n
  | .regwr n v =>
    (e = .addr ∧ 15 ≤ n) ∨ (e = .ro ∧ n ∈ [0, 1, 5, 6, 7, 8, 9, 10, 12, 13, 14]) ∨
    (e = .value ∧ ((n = 2 ∧ ¬ (1 ≤ v.toNat ∧ v.toNat ≤ s.par.mssMax)) ∨ (n = 3 ∧ s.par.mssMax + 8 < v.toNat) ∨
      (n = 4 ∧ s.par.seqMod - 1 < v.toNat)))
  | .fbrd a | .fbwr a _ => e = .addr ∧ ¬ s.FbHas a
  | .encdata plen => e = .len ∧ s.mss.toNat < plen
  | .dec => e = .len ∧ s.flen.toNat < 8
  | _ => False

/-- Answering an error, with its bit of `ERRS` set, is raising it. -/
theorem exec_answers_err_iff {i : Instr} {s : State} {e : ErrCode} :
    (∃ t d, exec i s = .next t ∧ t.rsp = some ⟨.err e, d⟩ ∧ t.errs.getLsbD e.code = true) ↔
      exec i s = raise e s := by
  constructor
  · rintro ⟨t, d, ht, hrsp, -⟩
    rcases exec_outcome i s with ⟨e', he⟩ | ⟨d', hd⟩
    · rw [raise_next.1 (he.symm.trans ht)] at hrsp
      cases hrsp
      exact he
    · rw [respond_next.1 (hd.symm.trans ht)] at hrsp
      cases hrsp
  · intro h
    exact ⟨_, 0, h, rfl, by rw [BitVec.getLsbD_or, e.bit_getLsbD_code, Bool.or_true]⟩

theorem Reg.ofNumber?_eq_none_iff {n : Nat} : Reg.ofNumber? n = none ↔ 15 ≤ n := by
  refine ⟨fun h => ?_, Reg.ofNumber?_of_le⟩
  by_contra hn
  interval_cases n <;> cases h

theorem exec_regrd_eq_raise_iff {n : Nat} {s : State} {e : ErrCode} :
    exec (.regrd n) s = raise e s ↔ RefusedWith (.regrd n) s e := by
  unfold RefusedWith
  cases hr : Reg.ofNumber? n with
  | none => simp [exec_regrd_of_none hr, raise_eq_raise_iff, Reg.ofNumber?_eq_none_iff.1 hr]
  | some r => simp [exec_regrd_of_some hr, respond_ne_raise, ← Reg.ofNumber?_eq_none_iff, hr]

theorem exec_regwr_eq_raise_iff_of_some {n : Nat} {x : Reg} (hx : Reg.ofNumber? n = some x) {v : Word} {s : State}
    {e : ErrCode} : exec (.regwr n v) s = raise e s ↔ s.writeReg x v = .error e := by
  cases hw : s.writeReg x v with
  | error e' => simp [exec_regwr_of_error hx hw, raise_eq_raise_iff, eq_comm]
  | ok t => simp [exec_regwr_of_ok hx hw, respond_ne_raise]

/-- A range check answers its own error exactly when it fails. -/
theorem ite_ok_error_iff {c : Prop} [Decidable c] {e e' : ErrCode} {s : State} :
    (if c then .ok s else .error e' : Except ErrCode State) = .error e ↔ e = e' ∧ ¬ c := by
  split <;> simp [*, eq_comm]

/-- R153: the number is absent, or its register is not writable, or the value is out of the register's range. -/
theorem exec_regwr_eq_raise_iff {n : Nat} {v : Word} {s : State} {e : ErrCode} :
    exec (.regwr n v) s = raise e s ↔ RefusedWith (.regwr n v) s e := by
  unfold RefusedWith
  cases hx : Reg.ofNumber? n with
  | none =>
    have hn := Reg.ofNumber?_eq_none_iff.1 hx
    rw [exec_regwr_of_none hx, raise_eq_raise_iff]
    refine ⟨fun he => .inl ⟨he, hn⟩, ?_⟩
    rintro (⟨he, -⟩ | ⟨-, hro⟩ | ⟨-, hvalue⟩)
    · exact he
    · simp only [List.mem_cons, List.not_mem_nil, or_false] at hro
      omega
    · omega
  | some x =>
    rw [exec_regwr_eq_raise_iff_of_some hx]
    have hnum := Reg.number_of_ofNumber? hx
    cases x with
    | mss | flen | seq =>
      simp [State.writeReg, ite_ok_error_iff, hnum, Reg.ctorIdx]
    | _ => simp [State.writeReg, hnum, Reg.ctorIdx, eq_comm]

theorem exec_eq_raise_iff {i : Instr} {s : State} {e : ErrCode} : exec i s = raise e s ↔ RefusedWith i s e := by
  cases i with
  | regrd n => exact exec_regrd_eq_raise_iff
  | regwr n v => exact exec_regwr_eq_raise_iff
  | fbrd a => exact ite_respond_raise_iff
  | fbwr a b => exact ite_respond_raise_iff
  | encdata plen => exact ite_raise_respond_iff
  | dec => exact ite_raise_respond_iff
  | csbuf mode => cases mode <;> exact iff_false_intro respond_ne_raise
  | nop | srst | csclr | csaddw _ | csaddb _ | encack _ | encclose | tmarm | tmstop | tmpoll =>
    exact iff_false_intro respond_ne_raise

/-- R65: `ERR_ILLEGAL` is no command's own error. -/
theorem exec_ne_raise_illegal (i : Instr) (s : State) : exec i s ≠ raise .illegal s := by
  rw [ne_eq, exec_eq_raise_iff]
  cases i <;> simp [RefusedWith]

/-- R65: a word answers `ERR_ILLEGAL` exactly when it does not decode. -/
theorem issue_answers_illegal_iff (w : CmdWord) (s : State) :
    (∃ t d, issue w s = .next t ∧ t.rsp = some ⟨.err .illegal, d⟩ ∧ t.errs.getLsbD 1 = true) ↔
      ∃ e, decode w = .error e := by
  cases hd : decode w with
  | ok i =>
    rw [issue_of_decode_ok hd]
    exact iff_of_false (fun h => exec_ne_raise_illegal i s (exec_answers_err_iff.1 h)) nofun
  | error e =>
    rw [issue_of_decode_error hd]
    refine iff_of_true ⟨_, 0, rfl, rfl, ?_⟩ ⟨e, rfl⟩
    rw [BitVec.getLsbD_or, show ErrCode.illegal.bit.getLsbD 1 = true from rfl, Bool.or_true]

/-- Settles O40: answering an error is raising it (`exec_answers_err_iff`), and a command raises what
`RefusedWith` says of it. -/
theorem errorsHaveExactlyTheirCauses : Obligations.ErrorsHaveExactlyTheirCauses := by
  refine ⟨fun i s e _ => ?_, issue_answers_illegal_iff, by decide⟩
  rw [exec_answers_err_iff, exec_eq_raise_iff]
  cases i <;> simp [RefusedWith]

end Sys2Proof.Machine

/-! Proofs of the family 70_reset_and_hazards: the step that samples the reset input (O9), and the reset state as its
registers read (O10). -/

namespace Sys2Proof.Machine

/-! ### The reset input (R200) -/

/-- R200: the reset input goes before the response handshake and before any command presented. -/
theorem step_of_reset {s : State} {p : PortIn} {ps : List PortIn} (hin : s.inputs = p :: ps) (hrst : p.rst = true) :
    step s = .next (State.hardReset { s with inputs := ps, now := p.now }) := by
  rw [step_of_inputs_cons hin]
  simp [serve, hrst]

/-- R202: no byte is written yet after a hardware reset, so each reads as a free byte of the new reset. -/
theorem State.readByte_hardReset (s : State) (a : Nat) :
    s.hardReset.readByte a = Config.fbInit (s.fbEpoch + 1) a := rfl

theorem State.expired_of_not_armed {s : State} (h : s.armed = false) (t : Clock) : s.expired t = false := by
  rw [State.expired, h, Bool.false_and]

/-- Settles O9: in reset both handshakes are closed, and the step is `hardReset` (`step_of_reset`). -/
theorem resetInputGivesTheResetState : Obligations.ResetInputGivesTheResetState :=
  fun s p ps hin hrst => ⟨by simp [State.outputs, hrst], by simp [State.outputs, hrst],
    _, step_of_reset hin hrst, State.readByte_hardReset _, State.expired_of_not_armed (State.hardReset_armed _), rfl⟩

/-! ### The reset values as the registers read (R201) -/

/-- The reset column of R11: what register `n` reads right after reset, for `n` below 15. -/
def resetReading (p : Params) (n : Nat) : Nat :=
  if n = 0 then 0x47424E01 else if n = 2 then p.mssMax else if n = 11 then p.tmoReset.toNat else 0

theorem resetReading_lt {p : Params} (hp : p.Legal) (n : Nat) : resetReading p n < 2 ^ 32 := by
  obtain ⟨⟨-, hmss⟩, -⟩ := hp
  have htmo := p.tmoReset.isLt
  unfold resetReading
  split_ifs <;> omega

/-- Each register below 15 answers its reset value: its row of the register map (O12), read at the reset state. -/
theorem exec_regrd_resetWith {p : Params} (hp : p.Legal) (e : Nat) {n : Nat} (hn : n < 15) :
    exec (.regrd n) (State.resetWith p e) =
      respond (BitVec.ofNat 32 (resetReading p n)) (State.resetWith p e) := by
  refine (registerReadsAnswerTheMap _).1 n _ ?_
  simp only [State.resetWith, mssReset_toNat hp]
  interval_cases n <;> simp [resetReading]

/-- Settles O10: the reading fits 32 bits (`resetReading_lt`), and the timer is not armed. -/
theorem resetStateHoldsTheResetValues : Obligations.ResetStateHoldsTheResetValues := by
  refine fun p e hp => ⟨fun n hn => ⟨_, _, exec_regrd_resetWith hp e hn, rfl, ?_⟩,
    State.expired_of_not_armed rfl, rfl⟩
  rw [BitVec.toNat_ofNat, Nat.mod_eq_of_lt (resetReading_lt hp n), resetReading]

end Sys2Proof.Machine
